-- ==== Sys2Proof/Word.lean ====
section
/-! DEFINITION. The word types of the engine (00_scope.md R9, R14; 10_state.md R21, R36). -/

namespace Sys2Proof

/-- `u64`: every word of the chaining state, the schedule, the constant tables and the host port (R14). -/
abbrev Word := BitVec 64

/-- One byte of a byte sequence or buffer (R15). -/
abbrev Byte := BitVec 8

/-- The 8-word chaining value, the spec's `State` (R18, R21). -/
abbrev Chain := Vector Word 8

/-- The 8-word working register `a, b, c, d, e, f, g, h` of the compression function (R36, R152). -/
structure Work where
  a : Word
  b : Word
  c : Word
  d : Word
  e : Word
  f : Word
  g : Word
  h : Word
  deriving DecidableEq, Repr, Inhabited

end Sys2Proof
end

