-- ==== Sys2Proof/Syntax.lean ====
section
/-! DEFINITION. The commands of the engine: one constructor per row of spec/opcode_table.json
(30_encoding.md R80 to R86). -/

namespace Sys2Proof

/-- A command (R18: it plays the part an instruction plays in a processor). Every command has one format and
no operand field: each operand is implicit (R81, R85). -/
inductive Instr where
  /-- INIT, opcode 0x01: load the initialization vector into H (R160). -/
  | init
  /-- COMPRESS, opcode 0x02: fold whole blocks of MSG into H (R165). -/
  | compress
  /-- DIGEST, opcode 0x03: pad, hash and serialise the message in MSG (R182). -/
  | digest
  /-- EXTRACT, opcode 0x04: serialise H into RAW (R186). -/
  | extract
  /-- DUMP, opcode 0x05: encode RAW as lowercase hex into HEX (R205). -/
  | dump
  /-- READ, opcode 0x06: decode HEX into RAW (R212). -/
  | read
  deriving DecidableEq, Repr, Inhabited

end Sys2Proof
end

