-- ==== Sys2Proof/WellFormed.lean ====
section
/-! DEFINITION. What a well-formed command, command word and engine size are (00_scope.md R10;
30_encoding.md R80 to R83). -/

namespace Sys2Proof

/-- A command carries no operand field (R81), so there is no field to check: every term of `Instr` is well
formed. The checks of this hardware are on the command word (`reservedClear`, `opcodeAssigned`) and on the size
of the message buffer (`sizeLegal`). -/
def wellFormed (_ : Instr) : Bool := true

/-- The reserved field RSV = w[63:8] is 0 (R80). -/
def reservedClear (w : Word) : Bool := w.extractLsb' 8 56 == 0

/-- The opcode field OP = w[7:0] is one of 0x01 to 0x06 (R82, R83). -/
def opcodeAssigned (w : Word) : Bool := 1 ≤ (w.extractLsb' 0 8).toNat && (w.extractLsb' 0 8).toNat ≤ 6

/-- A command word that R83 does not call illegal. -/
def wordLegal (w : Word) : Bool := reservedClear w && opcodeAssigned w

/-- The three constraints R10 puts on MSG_BYTES. -/
def sizeLegal (n : Nat) : Bool := n % 8 == 0 && 256 ≤ n && 0x1000 + n ≤ 2 ^ 64

end Sys2Proof
end

