-- ==== Sys2Proof/Config.lean ====
section
/-! DEFINITION. What an implementation fixes and what the spec leaves open: the size of the message buffer
(00_scope.md R10) and the free values of 93_implementation_defined.md S1, S2 and S3. Every `opaque` below has no
body: no proof can learn its value. -/

namespace Sys2Proof.Config

/-- Fixes how many port words the message buffer has above the 256 bytes R10 asks for at least (note 1). -/
opaque extraWords : Nat

/-- MSG_BYTES of the engine that `State.reset` is: any size R10 allows, and only those (note 1). -/
def msgBytes : Nat := 256 + 8 * (extraWords % ((2 ^ 64 - 0x1000 - 256) / 8 + 1))

/-- The byte MSG[i] holds after the n-th reset and until the host writes it: `any value`, drawn once per byte at
each reset (R25, R270, S1; note 2). -/
opaque msgDraw : Nat → Nat → Byte

/-- What a host read of H, RAW, HEX or BLKCNT returns while BUSY = 1: `any value`, a fresh draw for each read
(R54, S2; note 3). -/
opaque busyRead : Nat → Word

/-- PEND after a command has been performed: unspecified (R36, R238; note 4). -/
opaque pendDraw : Nat → Word

/-- The working register a..h between commands: unspecified (R36; note 4). -/
opaque workDraw : Nat → Work

/-- The message schedule W[0..79] between commands: unspecified (R36; note 4). -/
opaque scheduleDraw : Nat → Vector Word 80

/-- The round counter t between commands: unspecified (R36; note 4). -/
opaque roundDraw : Nat → Fin 80

/-- The block index between commands: unspecified (R36; note 4). -/
opaque blockDraw : Nat → Nat

end Sys2Proof.Config
end

