-- ==== Sys2Proof/Decode.lean ====
section
/-! DEFINITION. Decoding and encoding of the command word (30_encoding.md R80 to R86). -/

namespace Sys2Proof

/-- Why a command word is illegal (R83). -/
inductive Illegal where
  /-- RSV = w[63:8] is not 0, whatever OP is. -/
  | reservedBits
  /-- OP = 0x00 or OP in 0x07..0xFF. -/
  | unassignedOpcode
  deriving DecidableEq, Repr

/-- The answer of the decoder, total over all 2^64 words (R84). -/
inductive Decoded where
  | command (i : Instr)
  | illegal (why : Illegal)
  deriving DecidableEq, Repr

/-- OP = w[7:0] (R80). -/
def opField (w : Word) : BitVec 8 := w.extractLsb' 0 8

/-- RSV = w[63:8] (R80). -/
def rsvField (w : Word) : BitVec 56 := w.extractLsb' 8 56

/-- The opcode map of R82. -/
def commandOf (op : Nat) : Option Instr :=
  match op with
  | 0x01 => some .init
  | 0x02 => some .compress
  | 0x03 => some .digest
  | 0x04 => some .extract
  | 0x05 => some .dump
  | 0x06 => some .read
  | _ => none

/-- The decoder of R84: the reserved field first, then the opcode. -/
def decode (w : Word) : Decoded :=
  if rsvField w ≠ 0 then .illegal .reservedBits
  else
    match commandOf (opField w).toNat with
    | some i => .command i
    | none => .illegal .unassignedOpcode

/-- OP of each command (R82). -/
def opcodeOf (i : Instr) : BitVec 8 :=
  match i with
  | .init => 0x01
  | .compress => 0x02
  | .digest => 0x03
  | .extract => 0x04
  | .dump => 0x05
  | .read => 0x06

/-- The command word of a command: RSV = 0 above its OP (R80, R82). -/
def encode (i : Instr) : Word := (0 : BitVec 56) ++ opcodeOf i

/-- The instruction the decoder reads from an opcode-table row's bits `w`, of which the table gives `nbits`. A
command is one port word (R86), so bits at 64 and above, if any is set, belong to no command. -/
def decodeTableWord (nbits w : Nat) : Option Instr :=
  if w % 2 ^ nbits < 2 ^ 64 then
    match decode (BitVec.ofNat 64 (w % 2 ^ nbits)) with
    | .command i => some i
    | .illegal _ => none
  else none

end Sys2Proof
end

