-- ==== Sys2Proof/Machine/Tables.lean ====
section
/-! DEFINITION. The constant tables (40_functions.md R110, R111): read-only storage inside the engine, which the
host cannot reach and nothing ever changes (10_state.md R37). -/

namespace Sys2Proof.Machine

/-- The initialization vector IV[0..7] (R110): the first 64 bits of the fractional parts of the square roots of
the first 8 primes (R112). -/
def initVector : Chain :=
  #v[0x6a09e667f3bcc908, 0xbb67ae8584caa73b, 0x3c6ef372fe94f82b, 0xa54ff53a5f1d36f1,
     0x510e527fade682d1, 0x9b05688c2b3e6c1f, 0x1f83d9abfb41bd6b, 0x5be0cd19137e2179]

/-- Rows 0 to 9 of the table of R111: row t holds K[t], K[t + 20], K[t + 40] and K[t + 60]. -/
def upperConstantRows : List (Word × Word × Word × Word) :=
  [(0x428a2f98d728ae22, 0x2de92c6f592b0275, 0xa2bfe8a14cf10364, 0x90befffa23631e28),
   (0x7137449123ef65cd, 0x4a7484aa6ea6e483, 0xa81a664bbc423001, 0xa4506cebde82bde9),
   (0xb5c0fbcfec4d3b2f, 0x5cb0a9dcbd41fbd4, 0xc24b8b70d0f89791, 0xbef9a3f7b2c67915),
   (0xe9b5dba58189dbbc, 0x76f988da831153b5, 0xc76c51a30654be30, 0xc67178f2e372532b),
   (0x3956c25bf348b538, 0x983e5152ee66dfab, 0xd192e819d6ef5218, 0xca273eceea26619c),
   (0x59f111f1b605d019, 0xa831c66d2db43210, 0xd69906245565a910, 0xd186b8c721c0c207),
   (0x923f82a4af194f9b, 0xb00327c898fb213f, 0xf40e35855771202a, 0xeada7dd6cde0eb1e),
   (0xab1c5ed5da6d8118, 0xbf597fc7beef0ee4, 0x106aa07032bbd1b8, 0xf57d4f7fee6ed178),
   (0xd807aa98a3030242, 0xc6e00bf33da88fc2, 0x19a4c116b8d2d0c8, 0x06f067aa72176fba),
   (0x12835b0145706fbe, 0xd5a79147930aa725, 0x1e376c085141ab53, 0x0a637dc5a2c898a6)]

/-- Rows 10 to 19 of the table of R111. -/
def lowerConstantRows : List (Word × Word × Word × Word) :=
  [(0x243185be4ee4b28c, 0x06ca6351e003826f, 0x2748774cdf8eeb99, 0x113f9804bef90dae),
   (0x550c7dc3d5ffb4e2, 0x142929670a0e6e70, 0x34b0bcb5e19b48a8, 0x1b710b35131c471b),
   (0x72be5d74f27b896f, 0x27b70a8546d22ffc, 0x391c0cb3c5c95a63, 0x28db77f523047d84),
   (0x80deb1fe3b1696b1, 0x2e1b21385c26c926, 0x4ed8aa4ae3418acb, 0x32caab7b40c72493),
   (0x9bdc06a725c71235, 0x4d2c6dfc5ac42aed, 0x5b9cca4f7763e373, 0x3c9ebe0a15c9bebc),
   (0xc19bf174cf692694, 0x53380d139d95b3df, 0x682e6ff3d6b2b8a3, 0x431d67c49c100d4c),
   (0xe49b69c19ef14ad2, 0x650a73548baf63de, 0x748f82ee5defb2fc, 0x4cc5d4becb3e42b6),
   (0xefbe4786384f25e3, 0x766a0abb3c77b2a8, 0x78a5636f43172f60, 0x597f299cfc657e2a),
   (0x0fc19dc68b8cd5b5, 0x81c2c92e47edaee6, 0x84c87814a1f0ab72, 0x5fcb6fab3ad6faec),
   (0x240ca1cc77ac9c65, 0x92722c851482353b, 0x8cc702081a6439ec, 0x6c44198c4a475817)]

/-- The rows of the table of R111. -/
def constantRows : List (Word × Word × Word × Word) := upperConstantRows ++ lowerConstantRows

/-- The round constants K[0..79] (R111): the columns of the table, one after another. They are the first 64 bits of
the fractional parts of the cube roots of the first 80 primes (R112). -/
def roundConstants : List Word :=
  constantRows.map (fun row => row.1) ++ constantRows.map (fun row => row.2.1) ++
    constantRows.map (fun row => row.2.2.1) ++ constantRows.map (fun row => row.2.2.2)

end Sys2Proof.Machine
end

