-- ==== Sys2Proof/Machine/Functions.lean ====
section
/-! DEFINITION. The primitive word functions (00_scope.md R14; 40_functions.md R100 to R107) and the big-endian
byte order (00_scope.md R15; 20_memory.md R56, R59). -/

namespace Sys2Proof.Machine

/-- `ROTR(x, n)` for 0 < n < 64 (R14, R100). -/
def rotr (x : Word) (n : Nat) : Word := (x >>> n) ||| (x <<< (64 - n))

/-- `SHR(x, n)` for 0 < n < 64 (R14, R100). -/
def shr (x : Word) (n : Nat) : Word := x >>> n

/-- Σ0 (R101). -/
def bigSigma0 (x : Word) : Word := rotr x 28 ^^^ rotr x 34 ^^^ rotr x 39

/-- Σ1 (R102). -/
def bigSigma1 (x : Word) : Word := rotr x 14 ^^^ rotr x 18 ^^^ rotr x 41

/-- σ0 (R103). -/
def smallSigma0 (x : Word) : Word := rotr x 1 ^^^ rotr x 8 ^^^ shr x 7

/-- σ1 (R104). -/
def smallSigma1 (x : Word) : Word := rotr x 19 ^^^ rotr x 61 ^^^ shr x 6

/-- Ch (R105). -/
def choose (x y z : Word) : Word := (x &&& y) ^^^ (~~~x &&& z)

/-- Maj (R106). -/
def majority (x y z : Word) : Word := (x &&& y) ^^^ (x &&& z) ^^^ (y &&& z)

/-- `BE_n(v)`: the n-byte big-endian encoding of v, most significant byte first (R15). -/
def bigEndian (n v : Nat) : List Byte :=
  (List.range n).map fun k => BitVec.ofNat 8 (v / 256 ^ (n - 1 - k))

/-- `fromBE`, the inverse of `BE_n` (R15). -/
def fromBigEndian (bytes : List Byte) : Nat := bytes.foldl (fun n b => 256 * n + b.toNat) 0

/-- Byte j of a word in big-endian order, v[63-8j : 56-8j], for j in 0..7 (R56, R180). -/
@[irreducible] def byteOfWord (v : Word) (j : Nat) : Byte := v.extractLsb' (56 - 8 * j) 8

/-- The big-endian word of 8 bytes given by their index (R56, R59). -/
@[irreducible] def wordOfBytes (b : Nat → Byte) : Word := BitVec.ofNat 64 (fromBigEndian ((List.range 8).map b))

end Sys2Proof.Machine
end

