-- ==== Sys2Proof/Machine/Padding.lean ====
section
/-! DEFINITION. Message padding and the block parser (41_padding.md R130 to R139). -/

namespace Sys2Proof.Machine

/-- Z(L) = (111 - L) mod 128 with the mathematical mod: the number of zero bytes of the padding (R131). -/
def zeroCount (len : Nat) : Nat := ((111 - (len : Int)) % 128).toNat

/-- N(L): the number of blocks of the padded message (R134). -/
def blockCount (len : Nat) : Nat := (len + 16) / 128 + 1

/-- Pad(m) (R130): the message, 0x80, Z zero bytes, and the bit length as a 16-byte big-endian field. Byte k of the
field holds bits 127-8k:120-8k of the bit length, so bits 66:64 stand in byte 7. R132 contradicts itself on bytes 7 and
8; that its layout is followed and not its last sentence is a DESIGN CHOICE (note 13), seen for long messages alone. -/
@[irreducible] def pad (m : List Byte) : List Byte :=
  m ++ [0x80] ++ List.replicate (zeroCount m.length) 0x00 ++ bigEndian 16 (8 * m.length)

/-- B_j = P[128j .. 128j + 128) (R138). -/
def block (p : List Byte) (j : Nat) : List Byte := (p.drop (128 * j)).take 128

/-- The blocks of a padded message, in order (R138). -/
def blocksOf (p : List Byte) : List (List Byte) := (List.range (p.length / 128)).map (block p)

/-- W[0..15] of a block: its 16 big-endian words (R139). -/
def blockWords (b : List Byte) : List Word :=
  (List.range 16).map fun i => BitVec.ofNat 64 (fromBigEndian ((b.drop (8 * i)).take 8))

end Sys2Proof.Machine
end

