-- ==== Sys2Proof/Machine/Compression.lean ====
section
/-! DEFINITION. The compression function F and its iteration over blocks (42_compression.md R150 to R156). -/

namespace Sys2Proof.Machine

/-- The next schedule word from the words before it, newest first: at time t the list holds W[t-1], W[t-2], …, and
W[t] = σ1(W[t-2]) + W[t-7] + σ0(W[t-15]) + W[t-16] (R151). -/
def nextScheduleWord (newestFirst : List Word) : Word :=
  smallSigma1 (newestFirst.getD 1 0) + newestFirst.getD 6 0 + smallSigma0 (newestFirst.getD 14 0)
    + newestFirst.getD 15 0

/-- `n` further schedule words, newest first. -/
def extendSchedule (n : Nat) (newestFirst : List Word) : List Word :=
  match n with
  | 0 => newestFirst
  | n + 1 => extendSchedule n (nextScheduleWord newestFirst :: newestFirst)

/-- The message schedule W[0..79] of a block (R151). -/
@[irreducible] def schedule (b : List Byte) : List Word := (extendSchedule 64 (blockWords b).reverse).reverse

/-- Round t on the working register, given K[t] and W[t]. Every assignment reads the values from before the round
(R152). -/
def roundStep (r : Work) (k w : Word) : Work :=
  let t1 := r.h + bigSigma1 r.e + choose r.e r.f r.g + k + w
  let t2 := bigSigma0 r.a + majority r.a r.b r.c
  { a := t1 + t2, b := r.a, c := r.b, d := r.c, e := r.d + t1, f := r.e, g := r.f, h := r.g }

/-- The working register before round 0: (a, …, h) = (Hin[0], …, Hin[7]) (R153). -/
def loadWork (h : Chain) : Work :=
  { a := h[0], b := h[1], c := h[2], d := h[3], e := h[4], f := h[5], g := h[6], h := h[7] }

/-- The rounds over pairs (K[t], W[t]), in the order of the list (R152). -/
def runRounds (kw : List (Word × Word)) (r : Work) : Work := kw.foldl (fun r p => roundStep r p.1 p.2) r

/-- The word-wise addition of the post-round working register onto the input State (R154). -/
def feedForward (h : Chain) (r : Work) : Chain :=
  #v[h[0] + r.a, h[1] + r.b, h[2] + r.c, h[3] + r.d, h[4] + r.e, h[5] + r.f, h[6] + r.g, h[7] + r.h]

/-- F(Hin, B), the compression function (R155). -/
@[irreducible] def compressBlock (h : Chain) (b : List Byte) : Chain :=
  feedForward h (runRounds (roundConstants.zip (schedule b)) (loadWork h))

/-- F*(H, B_0 … B_(n-1)): strictly in block order (R156). -/
def compressBlocks (h : Chain) (bs : List (List Byte)) : Chain := bs.foldl compressBlock h

end Sys2Proof.Machine
end

