-- ==== Sys2Proof/Machine/Codec.lean ====
section
/-! DEFINITION. The digest codec as pure functions: serialisation (43_digest.md R180, R181), raw to hex
(44_codec.md R200, R201) and hex to raw (44_codec.md R208 to R211). -/

namespace Sys2Proof.Machine

/-- Ser(H)[8k + j] = H[k][63 - 8j : 56 - 8j] (R180). -/
@[irreducible] def serialise (h : Chain) : Vector Byte 64 :=
  Vector.ofFn fun i : Fin 64 => byteOfWord (h[i.val / 8]'(by omega)) (i.val % 8)

/-- Digest(m) = Ser(F*(IV, blocks(Pad(m)))) (R181). -/
def digestOf (m : List Byte) : Vector Byte 64 := serialise (compressBlocks initVector (blocksOf (pad m)))

/-- hexch(v): the lowercase hex digit of a nibble (R200). -/
def hexDigit (v : Nat) : Byte := if v ≤ 9 then BitVec.ofNat 8 (0x30 + v) else BitVec.ofNat 8 (0x61 + (v - 10))

/-- Hex(r): two digits a byte, most significant nibble first, then the NUL sentinel (R201). -/
@[irreducible] def hexEncode (r : Vector Byte 64) : Vector Byte 129 :=
  Vector.ofFn fun i : Fin 129 =>
    if h : i.val < 128 then
      let b := r[i.val / 2]
      if i.val % 2 = 0 then hexDigit (b.extractLsb' 4 4).toNat else hexDigit (b.extractLsb' 0 4).toNat
    else 0x00

/-- hexval(c): the value of a hex digit of either case, none for every other byte (R208). -/
def hexValue (c : Byte) : Option Nat :=
  if 0x30 ≤ c.toNat ∧ c.toNat ≤ 0x39 then some (c.toNat - 0x30)
  else if 0x61 ≤ c.toNat ∧ c.toNat ≤ 0x66 then some (c.toNat - 0x61 + 10)
  else if 0x41 ≤ c.toNat ∧ c.toNat ≤ 0x46 then some (c.toNat - 0x41 + 10)
  else none

/-- The length of the text in HEX: the index of the first 0x00 byte, and 129 (at least 129) where there is none
(R209). -/
def textLength (t : Vector Byte 129) : Nat := t.toList.findIdx (· == 0x00)

/-- HEX is well formed (R210). -/
abbrev HexWellFormed (t : Vector Byte 129) : Prop :=
  t[128] = 0x00 ∧ ∀ i : Fin 128, (hexValue t[i.val]).isSome

/-- Unhex(T)[i] = hexval(T[2i]) * 16 + hexval(T[2i + 1]) (R211). It is used on well-formed texts only, where every
`hexval` is there. -/
@[irreducible] def hexDecode (t : Vector Byte 129) : Vector Byte 64 :=
  Vector.ofFn fun i : Fin 64 =>
    BitVec.ofNat 8 ((hexValue t[2 * i.val]).getD 0 * 16 + (hexValue t[2 * i.val + 1]).getD 0)

end Sys2Proof.Machine
end

