-- ==== Sys2Proof/Machine/State.lean ====
section
/-! DEFINITION. The state of one engine instance (10_state.md R20 to R40), with the host's transactions still to
come and the port's answers as data of the model. -/

namespace Sys2Proof.Machine

/-- The error codes a completion can report (R237). Codes 5 to 15 are reserved and never produced (S7). -/
inductive ErrCode where
  /-- Code 0: completed without error. -/
  | none
  /-- Code 1: RSV ≠ 0, or OP not in 0x01..0x06. -/
  | illegalCmd
  /-- Code 2: LEN > MSG_BYTES. -/
  | lenRange
  /-- Code 3: LEN mod 128 ≠ 0. -/
  | lenAlign
  /-- Code 4: HEX not well formed. -/
  | hexMalformed
  deriving DecidableEq, Repr

/-- The fields of the STATUS register (R28). Its reserved bits 7:4 and 63:12 read as 0 and hold nothing. -/
structure Status where
  busy : Bool
  done : Bool
  err : Bool
  ovr : Bool
  errcode : ErrCode
  deriving DecidableEq, Repr

/-- The field of the CTRL register (R31). Its reserved bits 63:1 read as 0 and hold nothing. -/
structure Ctrl where
  ie : Bool
  deriving DecidableEq, Repr

/-- The hidden working state of the compression function (R36): it persists between commands only as unspecified
values, since a command is one step (R61). -/
structure Scratch where
  work : Work
  schedule : Vector Word 80
  round : Fin 80
  blockIndex : Nat
  deriving DecidableEq, Repr

/-- The response of a port transaction (R50). -/
inductive Resp where
  | okay
  | slverr
  | decerr
  deriving DecidableEq, Repr

/-- What the port answers to one transaction: the response, and the data of a read answered OKAY (R50, R52, R55). -/
structure Answer where
  resp : Resp
  data : Option Word
  deriving DecidableEq, Repr

/-- A host transaction on the port, 8 bytes wide (R50). -/
inductive Txn where
  | read (addr : Word)
  | write (addr v : Word)
  deriving DecidableEq, Repr

/-- An event of the one total order of R65. -/
inductive Event where
  /-- A host transaction. -/
  | host (t : Txn)
  /-- A turn of the engine agent (R230). -/
  | engine
  /-- The host asserts the reset input (R270). -/
  | rst
  deriving DecidableEq, Repr

/-- The bytes of MSG written since the last reset, as (i, MSG[i]) with i strictly rising. A byte not listed has not
been written since that reset and has no value here: `messageByte` reads it as the draw of R25. -/
abbrev Memory := List Host.Cell

/-- One engine instance (R20, R28, R31, R36), and below it the model's own fields. -/
structure State where
  /-- H[0..7], the chaining state (R21). -/
  h : Chain
  /-- LEN (R24). -/
  len : Word
  /-- BLKCNT (R26). -/
  blkcnt : Word
  /-- MSG[0..MSG_BYTES-1], as far as written since the last reset (R25). -/
  msg : Memory
  /-- RAW[0..63] (R27). -/
  raw : Vector Byte 64
  /-- HEX[0..128] (R30). -/
  hex : Vector Byte 129
  /-- STATUS (R28). -/
  status : Status
  /-- CTRL (R31). -/
  ctrl : Ctrl
  /-- PEND, the accepted command word (R36). -/
  pend : Word
  /-- The working register, message schedule, round counter and block index (R36). -/
  scratch : Scratch
  /-- The model's own: MSG_BYTES of this instance, the parameter R10 leaves open. No step changes it. -/
  msgBytes : Nat
  /-- The model's own: how many resets there have been, which numbers the draws of MSG (R25). -/
  resets : Nat
  /-- The model's own: how many free values have been drawn (S2, S3). -/
  draws : Nat
  /-- The model's own: the events still to come, in the order of R65. -/
  events : List Event
  /-- The model's own: the answers the port has given, newest first (R50). -/
  answers : List Answer
  deriving DecidableEq, Repr

/-- The engine has no fault: every port transaction has a response, and a command in error completes with an error
code in STATUS (R52, R55, R235, R236). So this type has no constructor, and no step can stop with one. -/
inductive Fault where
  deriving DecidableEq, Repr

/-- Why a step can answer no state at all. -/
inductive Refusal where
  /-- Raised by `exec` alone, for a command without a meaning in this model; safe. No arm raises it: every command of
  the opcode table has its meaning. -/
  | notModelled (mnemonic : String)
  deriving DecidableEq, Repr

/-- STATUS after reset: every field 0 (R28, R270). -/
def statusAtReset : Status := { busy := false, done := false, err := false, ovr := false, errcode := .none }

/-- The working values at reset, which R270 leaves unspecified: zero (note 5, DESIGN CHOICE). -/
def scratchAtReset : Scratch :=
  { work := ⟨0, 0, 0, 0, 0, 0, 0, 0⟩, schedule := Vector.replicate 80 0, round := 0, blockIndex := 0 }

/-- The engine with a message buffer of `n` bytes right after reset (R270). PEND and the working values, which R270
leaves unspecified, are zero (note 5, DESIGN CHOICE). MSG has nothing written: each byte is a draw (note 2). -/
def State.resetWith (n : Nat) : State where
  h := initVector
  len := 0
  blkcnt := 0
  msg := []
  raw := Vector.replicate 64 0x00
  hex := Vector.replicate 129 0x00
  status := statusAtReset
  ctrl := { ie := false }
  pend := 0
  scratch := scratchAtReset
  msgBytes := n
  resets := 0
  draws := 0
  events := []
  answers := []

/-- The machine right after reset, with a message buffer of any size R10 allows (note 1). -/
def State.reset : State := State.resetWith Config.msgBytes

end Sys2Proof.Machine
end

