-- ==== Sys2Proof/Machine/Flags.lean ====
section
/-! DEFINITION. STATUS and CTRL: their words on the port and every way their fields change (10_state.md R28, R31;
60_exceptions.md R231, R232, R242, R246). -/

namespace Sys2Proof.Machine

/-- The value of STATUS.ERRCODE for each error (R237). -/
def errorNumber (c : ErrCode) : BitVec 4 :=
  match c with
  | .none => 0
  | .illegalCmd => 1
  | .lenRange => 2
  | .lenAlign => 3
  | .hexMalformed => 4

/-- STATUS as a word: bit 0 BUSY, bit 1 DONE, bit 2 ERR, bit 3 OVR, bits 7:4 zero, bits 11:8 ERRCODE, bits 63:12
zero (R28). -/
def statusWord (f : Status) : Word :=
  (0 : BitVec 52) ++ errorNumber f.errcode ++ (0 : BitVec 4) ++ BitVec.ofBool f.ovr ++ BitVec.ofBool f.err
    ++ BitVec.ofBool f.done ++ BitVec.ofBool f.busy

/-- CTRL as a word: bit 0 IE, bits 63:1 zero (R31). -/
def ctrlWord (c : Ctrl) : Word := (0 : BitVec 63) ++ BitVec.ofBool c.ie

/-- A host write of `v` to CTRL: IE takes bit 0, the reserved bits are ignored (R31). -/
def ctrlAfterWrite (v : Word) : Ctrl := { ie := v.getLsbD 0 }

/-- A host write of `v` to STATUS: a 1 in bit 1 clears DONE, a 1 in bit 3 clears OVR, all else is ignored (R28). -/
def statusAfterWrite (v : Word) (f : Status) : Status :=
  { f with done := f.done && !v.getLsbD 1, ovr := f.ovr && !v.getLsbD 3 }

/-- STATUS at the acceptance of a command: BUSY set; DONE, ERR and ERRCODE cleared; OVR unchanged (R231). -/
def statusAccepted (f : Status) : Status := { busy := true, done := false, err := false, ovr := f.ovr, errcode := .none }

/-- STATUS at the completion of a command with `code`: BUSY cleared, DONE set, ERR and ERRCODE from the code; OVR
unchanged (R232, R242). -/
def statusCompleted (code : ErrCode) (f : Status) : Status :=
  { busy := false, done := true, err := code != .none, ovr := f.ovr, errcode := code }

/-- STATUS when a host write is discarded because BUSY = 1: OVR set (R54, R242). -/
def statusOverrun (f : Status) : Status := { f with ovr := true }

end Sys2Proof.Machine
end

