-- ==== Sys2Proof/Machine/Ops.lean ====
section
/-! DEFINITION. The named operations over memory and registers, completion and raising an error (the engine's only
exception mechanism), acceptance and reset. -/

namespace Sys2Proof.Machine

/-! ### The message buffer -/

/-- The byte a memory lists at an address, if it lists one. -/
def Memory.get? (m : Memory) (a : Nat) : Option Byte :=
  match m with
  | [] => none
  | c :: rest => if c.1 = a then some c.2 else Memory.get? rest a

/-- Stores a byte, keeping the addresses strictly rising. -/
def Memory.put (m : Memory) (a : Nat) (b : Byte) : Memory :=
  match m with
  | [] => [(a, b)]
  | c :: rest =>
    if a < c.1 then (a, b) :: c :: rest
    else if a = c.1 then (a, b) :: rest
    else c :: Memory.put rest a b

/-- The canonical form: addresses strictly rising. An unlisted byte has no value in the list, so no entry can equal
what an unlisted one reads as. -/
def Memory.wf (m : Memory) : Bool :=
  match m with
  | [] => true
  | c :: rest => (match rest with | [] => true | d :: _ => decide (c.1 < d.1)) && Memory.wf rest

/-- MSG[i]: the byte written since the last reset, or that reset's draw (R25, S1; note 2). -/
def messageByte (s : State) (i : Nat) : Byte := (s.msg.get? i).getD (Config.msgDraw s.resets i)

/-- MemRead(off, n) = MSG[off] ‖ … ‖ MSG[off+n-1] (R16). The commands use it with off + n ≤ MSG_BYTES only. -/
def memRead (s : State) (off n : Nat) : List Byte := (List.range n).map fun i => messageByte s (off + i)

/-- Stores the 8 bytes of a port word at MSG[off..off+8), big-endian (R56). -/
def memWriteWord (m : Memory) (off : Nat) (v : Word) : Memory :=
  (List.range 8).foldl (fun m j => m.put (off + j) (byteOfWord v j)) m

/-! ### Registers -/

/-- H <- v, all 8 words. -/
def State.setH (s : State) (v : Chain) : State := { s with h := v }

/-- LEN <- v. -/
def State.setLen (s : State) (v : Word) : State := { s with len := v }

/-- BLKCNT <- v. -/
def State.setBlkcnt (s : State) (v : Word) : State := { s with blkcnt := v }

/-- MSG <- v. -/
def State.setMsg (s : State) (v : Memory) : State := { s with msg := v }

/-- RAW <- v, all 64 bytes. -/
def State.setRaw (s : State) (v : Vector Byte 64) : State := { s with raw := v }

/-- HEX <- v, all 129 bytes. -/
def State.setHex (s : State) (v : Vector Byte 129) : State := { s with hex := v }

/-- STATUS <- v. -/
def State.setStatus (s : State) (v : Status) : State := { s with status := v }

/-- CTRL <- v. -/
def State.setCtrl (s : State) (v : Ctrl) : State := { s with ctrl := v }

/-- PEND <- v. -/
def State.setPend (s : State) (v : Word) : State := { s with pend := v }

/-- The events still to come (model's own). -/
def State.setEvents (s : State) (v : List Event) : State := { s with events := v }

/-- Records an answer of the port (model's own). -/
def State.pushAnswer (s : State) (a : Answer) : State := { s with answers := a :: s.answers }

/-- Counts a free value as drawn (model's own). -/
def State.countDraw (s : State) : State := { s with draws := s.draws + 1 }

/-- PEND, the working register, W, t and the block index become unspecified, as they are between commands (R36,
R238; note 4). -/
def State.loseHidden (s : State) : State :=
  { s with
    pend := Config.pendDraw s.draws
    scratch :=
      { work := Config.workDraw s.draws
        schedule := Config.scheduleDraw s.draws
        round := Config.roundDraw s.draws
        blockIndex := Config.blockDraw s.draws }
    draws := s.draws + 1 }

/-- The output signal irq = STATUS.DONE ∧ CTRL.IE (R38, R245). -/
def State.irq (s : State) : Bool := s.status.done && s.ctrl.ie

/-! ### Command lifecycle -/

/-- Acceptance of the command word `w` (R231). -/
def accept (w : Word) (s : State) : State := (s.setPend w).setStatus (statusAccepted s.status)

/-- complete(code), the last action of every performed command (R232). -/
def complete (code : ErrCode) (s : State) : State := (s.setStatus (statusCompleted code s.status)).loseHidden

/-- raise Error(code): the command ends at once with complete(code), and no other state is written (R236). There is
no saved state, no vector and no return: the next command may follow at once (R235, R247). -/
def raiseError (code : ErrCode) (s : State) : Host.Outcome State Fault Refusal := .next (complete code s)

/-- A command that ends without error: its writes, then complete(NONE) (R232). -/
def finish (s : State) : Host.Outcome State Fault Refusal := .next (complete .none s)

/-- The reset input is asserted: every register takes the value of R270, whatever a command in progress had done
(R271). MSG has a new draw (R25). What the host has still to do, and what the port has answered, is not the engine's
and stays. -/
def assertReset (s : State) : State :=
  { State.resetWith s.msgBytes with
    resets := s.resets + 1
    draws := s.draws
    events := s.events
    answers := s.answers }

end Sys2Proof.Machine
end

