-- ==== Sys2Proof/Machine/Operands.lean ====
section
/-! DEFINITION. The implicit operands of the commands and the checks on them (30_encoding.md R85). -/

namespace Sys2Proof.Machine

/-- LEN ≤ MSG_BYTES (R85, R237 code 2). -/
def lenFits (s : State) : Bool := decide (s.len.toNat ≤ s.msgBytes)

/-- LEN mod 128 = 0 (R85, R237 code 3). -/
def lenWhole (s : State) : Bool := s.len.toNat % 128 == 0

/-- MSG[0..LEN), the message DIGEST hashes (R182). -/
def messageOf (s : State) : List Byte := memRead s 0 s.len.toNat

/-- The n blocks COMPRESS folds: MemRead(128j, 128) for j = 0 … n-1, in that order (R165). -/
def messageBlocks (s : State) (n : Nat) : List (List Byte) := (List.range n).map fun j => memRead s (128 * j) 128

end Sys2Proof.Machine
end

