-- ==== Sys2Proof/Machine/ChainCommands.lean ====
section
/-! DEFINITION. INIT and COMPRESS (42_compression.md R160, R165). -/

namespace Sys2Proof.Machine

/-- INIT: H <- IV (R160). -/
def execInit (s : State) : Host.Outcome State Fault Refusal := finish (s.setH initVector)

/-- COMPRESS: fold LEN/128 whole blocks of MSG into H, with no padding (R165). LEN_RANGE is checked before
LEN_ALIGN (R240). -/
def execCompress (s : State) : Host.Outcome State Fault Refusal :=
  if !lenFits s then raiseError .lenRange s
  else if !lenWhole s then raiseError .lenAlign s
  else
    let n := s.len.toNat / 128
    finish ((s.setH (compressBlocks s.h (messageBlocks s n))).setBlkcnt (BitVec.ofNat 64 n))

end Sys2Proof.Machine
end

