-- ==== Sys2Proof/Machine/CodecCommands.lean ====
section
/-! DEFINITION. DUMP and READ (44_codec.md R205, R212). -/

namespace Sys2Proof.Machine

/-- DUMP: HEX <- Hex(RAW), all 129 bytes (R205). -/
def execDump (s : State) : Host.Outcome State Fault Refusal := finish (s.setHex (hexEncode s.raw))

/-- READ: RAW <- Unhex(HEX) where HEX is well formed; HEX_MALFORMED and RAW unchanged where it is not (R212). -/
def execRead (s : State) : Host.Outcome State Fault Refusal :=
  if HexWellFormed s.hex then finish (s.setRaw (hexDecode s.hex)) else raiseError .hexMalformed s

end Sys2Proof.Machine
end

