-- ==== Sys2Proof/Machine/DigestCommands.lean ====
section
/-! DEFINITION. DIGEST and EXTRACT (43_digest.md R182, R186). -/

namespace Sys2Proof.Machine

/-- DIGEST: hash MSG[0..LEN) from IV, with padding; the final State stays in H (R182). -/
def execDigest (s : State) : Host.Outcome State Fault Refusal :=
  if !lenFits s then raiseError .lenRange s
  else
    let hn := compressBlocks initVector (blocksOf (pad (messageOf s)))
    finish (((s.setH hn).setRaw (serialise hn)).setBlkcnt (BitVec.ofNat 64 (blockCount s.len.toNat)))

/-- EXTRACT: RAW <- Ser(H) (R186). -/
def execExtract (s : State) : Host.Outcome State Fault Refusal := finish (s.setRaw (serialise s.h))

end Sys2Proof.Machine
end

