-- ==== Sys2Proof/Machine/Dispatch.lean ====
section
/-! DEFINITION. The meaning of each command, one arm per constructor (60_exceptions.md R233). -/

namespace Sys2Proof.Machine

def exec (i : Instr) (s : State) : Host.Outcome State Fault Refusal :=
  match i with
  | .init => Sys2Proof.Machine.execInit s
  | .compress => Sys2Proof.Machine.execCompress s
  | .digest => Sys2Proof.Machine.execDigest s
  | .extract => Sys2Proof.Machine.execExtract s
  | .dump => Sys2Proof.Machine.execDump s
  | .read => Sys2Proof.Machine.execRead s

end Sys2Proof.Machine
end

