-- ==== Sys2Proof/Machine/Port.lean ====
section
/-! DEFINITION. The host port: address map, byte packing, transactions (20_memory.md R50 to R63). -/

namespace Sys2Proof.Machine

/-- What a mapped aligned port address names (R51). -/
inductive Target where
  | cmd
  | status
  | ctrl
  | len
  | blkcnt
  /-- H[i] at 0x0040 + 8i. -/
  | h (i : Fin 8)
  /-- Word k of RAW at 0x0080 + 8k. -/
  | raw (k : Fin 8)
  /-- Word k of HEX at 0x00C0 + 8k. -/
  | hex (k : Fin 17)
  /-- The word of MSG that starts at byte `off`, at 0x1000 + off. -/
  | msg (off : Nat)
  deriving DecidableEq, Repr

/-- The address map of R51 for an aligned address, `none` where it is unmapped. -/
def targetOf (msgBytes a : Nat) : Option Target :=
  if a = 0x0000 then some .cmd
  else if a = 0x0008 then some .status
  else if a = 0x0010 then some .ctrl
  else if a = 0x0018 then some .len
  else if a = 0x0020 then some .blkcnt
  else if 0x0040 ≤ a ∧ a ≤ 0x007F then some (.h (Fin.ofNat 8 ((a - 0x0040) / 8)))
  else if 0x0080 ≤ a ∧ a ≤ 0x00BF then some (.raw (Fin.ofNat 8 ((a - 0x0080) / 8)))
  else if 0x00C0 ≤ a ∧ a ≤ 0x0147 then some (.hex (Fin.ofNat 17 ((a - 0x00C0) / 8)))
  else if 0x1000 ≤ a ∧ a < 0x1000 + msgBytes then some (.msg (a - 0x1000))
  else none

/-- Port word k of a fixed buffer of n bytes, big-endian; places past its end read as 0 (R56, R57). -/
@[irreducible] def bufferWord {n : Nat} (b : Vector Byte n) (k : Nat) : Word :=
  wordOfBytes fun j => if h : 8 * k + j < n then b[8 * k + j] else 0x00

/-- A fixed buffer of n bytes after a port write of `v` to its word k; places past its end are ignored (R56, R57). -/
@[irreducible] def bufferWrite {n : Nat} (b : Vector Byte n) (k : Nat) (v : Word) : Vector Byte n :=
  Vector.ofFn fun i : Fin n => if i.val / 8 = k then byteOfWord v (i.val % 8) else b[i.val]

/-- The word a target holds (R28, R31, R32, R53, R56 to R58). -/
def readTarget (s : State) (r : Target) : Word :=
  match r with
  | .cmd => 0
  | .status => statusWord s.status
  | .ctrl => ctrlWord s.ctrl
  | .len => s.len
  | .blkcnt => s.blkcnt
  | .h i => s.h[i.val]
  | .raw k => bufferWord s.raw k.val
  | .hex k => bufferWord s.hex k.val
  | .msg off => wordOfBytes fun j => messageByte s (off + j)

/-- The targets a command may be in the middle of updating: H, RAW, HEX and BLKCNT (R54). -/
def midUpdate (r : Target) : Bool :=
  match r with
  | .h _ => true
  | .raw _ => true
  | .hex _ => true
  | .blkcnt => true
  | .cmd => false
  | .status => false
  | .ctrl => false
  | .len => false
  | .msg _ => false

/-- A write of `v` to a target while BUSY = 0 (R53). -/
def writeIdle (v : Word) (s : State) (r : Target) : State :=
  match r with
  | .cmd => accept v s
  | .status => s.setStatus (statusAfterWrite v s.status)
  | .ctrl => s.setCtrl (ctrlAfterWrite v)
  | .len => s.setLen v
  | .blkcnt => s
  | .h i => s.setH (s.h.set i.val v)
  | .raw k => s.setRaw (bufferWrite s.raw k.val v)
  | .hex k => s.setHex (bufferWrite s.hex k.val v)
  | .msg off => s.setMsg (memWriteWord s.msg off v)

/-- A write of `v` to a target while BUSY = 1: STATUS and CTRL take it, every other write is discarded and sets
OVR (R54, R280). -/
def writeBusy (v : Word) (s : State) (r : Target) : State :=
  match r with
  | .status => s.setStatus (statusAfterWrite v s.status)
  | .ctrl => s.setCtrl (ctrlAfterWrite v)
  | .cmd => s.setStatus (statusOverrun s.status)
  | .len => s.setStatus (statusOverrun s.status)
  | .blkcnt => s.setStatus (statusOverrun s.status)
  | .h _ => s.setStatus (statusOverrun s.status)
  | .raw _ => s.setStatus (statusOverrun s.status)
  | .hex _ => s.setStatus (statusOverrun s.status)
  | .msg _ => s.setStatus (statusOverrun s.status)

/-- PortRead(addr) (R50 to R55). No read has a side effect on the engine (R62); a read of R54's arbitrary value
counts as a draw of the model. -/
def portRead (addr : Word) (s : State) : Answer × State :=
  if addr.toNat % 8 ≠ 0 then ({ resp := .slverr, data := none }, s)
  else
    match targetOf s.msgBytes addr.toNat with
    | none => ({ resp := .decerr, data := none }, s)
    | some r =>
      if s.status.busy && midUpdate r then
        ({ resp := .okay, data := some (Config.busyRead s.draws) }, s.countDraw)
      else ({ resp := .okay, data := some (readTarget s r) }, s)

/-- PortWrite(addr, v) (R50 to R55). -/
def portWrite (addr v : Word) (s : State) : Answer × State :=
  if addr.toNat % 8 ≠ 0 then ({ resp := .slverr, data := none }, s)
  else
    match targetOf s.msgBytes addr.toNat with
    | none => ({ resp := .decerr, data := none }, s)
    | some r => ({ resp := .okay, data := none }, if s.status.busy then writeBusy v s r else writeIdle v s r)

/-- One host transaction: its effect on the engine, and its answer. -/
def transact (t : Txn) (s : State) : Answer × State :=
  match t with
  | .read addr => portRead addr s
  | .write addr v => portWrite addr v s

/-- A host transaction as a step: the port's answer is recorded. -/
def hostTurn (t : Txn) (s : State) : State := (transact t s).2.pushAnswer (transact t s).1

end Sys2Proof.Machine
end

