-- ==== Sys2Proof/Machine/Agents.lean ====
section
/-! DEFINITION. The two agents and the one total order of their events (10_state.md R33, R38; 20_memory.md R65;
60_exceptions.md R230, R233; 70_reset_and_hazards.md R270, R283). -/

namespace Sys2Proof.Machine

/-- A turn of the engine agent: while BUSY = 1 it performs the command in PEND, and an illegal word raises
ILLEGAL_CMD; while BUSY = 0 it has no step (R230, R233). -/
def engineTurn (s : State) : Host.Outcome State Fault Refusal :=
  if s.status.busy then
    match decode s.pend with
    | .command i => exec i s
    | .illegal _ => raiseError .illegalCmd s
  else .next s

/-- The next event of the total order (R65). When none is left to come the engine agent has its turn, so that an
accepted command is eventually performed (R283); an idle engine then stays as it is (R258). -/
def nextEvent (s : State) : Host.Outcome State Fault Refusal :=
  match s.events with
  | [] => engineTurn s
  | .engine :: rest => engineTurn (s.setEvents rest)
  | .host t :: rest => .next (hostTurn t (s.setEvents rest))
  | .rst :: rest => .next (assertReset (s.setEvents rest))

/-- Brings the command word `w` to where the engine takes its next command from: accepted into PEND with BUSY = 1
(R231), and the engine's turn next (R65). -/
def placeCommand (w : Word) (s : State) : State := (accept w s).setEvents (.engine :: s.events)

end Sys2Proof.Machine
end

