-- ==== Sys2Proof/Machine/Script.lean ====
section
/-! DEFINITION. The host-script syntax and its expansion into port transactions (30_encoding.md R87 to R89). -/

namespace Sys2Proof.Machine

/-- `<reg|addr>`: a register name of R51 or an address (R87). -/
inductive Place where
  | cmd
  | status
  | ctrl
  | len
  | blkcnt
  | h (i : Fin 8)
  | addr (a : Word)
  deriving DecidableEq, Repr

/-- The statements of R87 and the pseudo-statements of R88. -/
inductive Stmt where
  | wr (p : Place) (v : Word)
  | rd (p : Place)
  | rst
  | cmd (i : Instr)
  | wait
  | exec (i : Instr)
  | ldmsg (bytes : List Byte)
  | ldhex (text : List Byte)
  | rdhex
  deriving DecidableEq, Repr

/-- The port address of a place (R51, R87). -/
def placeAddress (p : Place) : Word :=
  match p with
  | .cmd => 0x0000
  | .status => 0x0008
  | .ctrl => 0x0010
  | .len => 0x0018
  | .blkcnt => 0x0020
  | .h i => 0x0040 + 8 * BitVec.ofNat 64 i.val
  | .addr a => a

/-- The writes of n words of a byte sequence from an address on, big-endian, past its end padded with 0x00 (R88). -/
def loadWords (base : Nat) (bytes : List Byte) (n : Nat) : List Event :=
  (List.range n).map fun k =>
    .host (.write (BitVec.ofNat 64 (base + 8 * k)) (wordOfBytes fun j => bytes.getD (8 * k + j) 0x00))

/-- `wait`: reads of STATUS until BUSY reads 0 (R88), in the interleaving where `polls` reads come before the engine's
turn. -/
def waitEvents (polls : Nat) : List Event :=
  List.replicate polls (.host (.read 0x0008)) ++ [.engine, .host (.read 0x0008)]

/-- The events of a statement (R87, R88). -/
def expand (polls : Nat) (st : Stmt) : List Event :=
  match st with
  | .wr p v => [.host (.write (placeAddress p) v)]
  | .rd p => [.host (.read (placeAddress p))]
  | .rst => [.rst]
  | .cmd i => [.host (.write 0x0000 (encode i))]
  | .wait => waitEvents polls
  | .exec i => .host (.write 0x0000 (encode i)) :: waitEvents polls
  | .ldmsg bytes => loadWords 0x1000 bytes ((bytes.length + 7) / 8)
  | .ldhex text => loadWords 0x00C0 text 17
  | .rdhex => (List.range 17).map fun k => .host (.read (BitVec.ofNat 64 (0x00C0 + 8 * k)))

/-- The events of a script, every `wait` with the same number of polls before the engine's turn. -/
def scriptEvents (polls : Nat) (sts : List Stmt) : List Event := sts.flatMap (expand polls)

/-- The encoding of a script: the list of its port transactions (R89). -/
def portTransactions (es : List Event) : List Txn :=
  es.filterMap fun e =>
    match e with
    | .host t => some t
    | .engine => none
    | .rst => none

end Sys2Proof.Machine
end

