-- ==== Sys2Proof/Safety.lean ====
section
/-! DEFINITION. The terms claims are stated in: what a coherent state is, what a completion leaves, and what no
command touches (10_state.md R28, R40; 20_memory.md R51, R63; 60_exceptions.md R232, R235, R236). -/

namespace Sys2Proof.Machine

/-- What holds of the engine at reset and after every step: the buffer has a size R10 allows, MSG is in canonical
form and inside the buffer, ERR is 1 exactly with a nonzero ERRCODE (R232), and while BUSY = 1 the flags of the
last completion are clear (R231, R40). -/
structure Coherent (s : State) : Prop where
  size_legal : sizeLegal s.msgBytes = true
  msg_sorted : Memory.wf s.msg = true
  msg_inside : ∀ c ∈ s.msg, c.1 < s.msgBytes
  err_iff_code : s.status.err = (s.status.errcode != .none)
  busy_clears : s.status.busy = true → s.status.done = false ∧ s.status.errcode = .none

/-- STATUS of `t` is STATUS of `s` after a completion with `code`: BUSY 0, DONE 1, ERR and ERRCODE from the code, OVR
unchanged (R232). -/
structure CompletedWith (code : ErrCode) (s t : State) : Prop where
  busy : t.status.busy = false
  done : t.status.done = true
  err : t.status.err = true ↔ code ≠ .none
  errcode : t.status.errcode = code
  ovr : t.status.ovr = s.status.ovr

/-- What no command writes: LEN, CTRL, OVR and every byte of MSG (R63), and what is not the engine's. -/
structure CommandFrame (s t : State) : Prop where
  len : t.len = s.len
  ctrl : t.ctrl = s.ctrl
  ovr : t.status.ovr = s.status.ovr
  msg : ∀ i, messageByte t i = messageByte s i
  size : t.msgBytes = s.msgBytes
  events : t.events = s.events
  answers : t.answers = s.answers

/-- `t` differs from `s` in STATUS at most, the hidden PEND and working values apart (R235, R236). -/
structure OnlyStatusChanged (s t : State) : Prop where
  frame : CommandFrame s t
  h : t.h = s.h
  blkcnt : t.blkcnt = s.blkcnt
  raw : t.raw = s.raw
  hex : t.hex = s.hex

/-- The aligned addresses R51 maps, as its table lists them, for a buffer of `n` bytes. -/
def MappedAddress (n a : Nat) : Prop :=
  a % 8 = 0 ∧
    (a ≤ 0x0020 ∨ (0x0040 ≤ a ∧ a ≤ 0x007F) ∨ (0x0080 ≤ a ∧ a ≤ 0x00BF) ∨ (0x00C0 ≤ a ∧ a ≤ 0x0147) ∨
      (0x1000 ≤ a ∧ a < 0x1000 + n))

/-- The aligned addresses whose reads R54 leaves arbitrary while BUSY = 1: BLKCNT, H, RAW and HEX. -/
def MidUpdateAddress (a : Nat) : Prop :=
  a % 8 = 0 ∧ (a = 0x0020 ∨ (0x0040 ≤ a ∧ a ≤ 0x0147))

/-- The next event is a turn of the engine agent (R65): one is listed, or none is left to come. -/
def EngineMoves (s : State) : Prop := s.events = [] ∨ ∃ rest, s.events = .engine :: rest

/-- The next event is the host transaction `t`. -/
def HostMoves (s : State) (t : Txn) : Prop := ∃ rest, s.events = .host t :: rest

/-- The next event is the assertion of the reset input. -/
def ResetMoves (s : State) : Prop := ∃ rest, s.events = .rst :: rest

end Sys2Proof.Machine
end

