-- ==== Sys2Proof/Certificates/Slice0/Obligations.lean ====
section
/-! DEFINITION. The statements of slice 0. Each docstring names the rule or section of spec/ it formalises. A
statement over every state holds for every size of the message buffer, every free value and every order of the
events still to come (20_memory.md R65; notes 1, 2, 3, 4 and 6). -/

open Sys2Proof Sys2Proof.Machine

/-! ### Encoding (30_encoding.md) -/

/-- R82: the six words of the opcode map, with all of RSV zero, and no other word, decode to a command, each to its
own. -/
def Obligations.DecodeReadsExactlyTheAssignedWords : Prop :=
  (∀ (w : Word) (i : Instr), decode w = .command i ↔ w = encode i) ∧
  encode .init = 0x01 ∧ encode .compress = 0x02 ∧ encode .digest = 0x03 ∧ encode .extract = 0x04 ∧
  encode .dump = 0x05 ∧ encode .read = 0x06

/-- R83: the illegal words are those with RSV ≠ 0 and those whose OP is 0x00 or in 0x07..0xFF. Performing one raises
ILLEGAL_CMD and changes nothing but STATUS. -/
def Obligations.IllegalWordsRaiseIllegalCmd : Prop :=
  (∀ w : Word, (∃ why, decode w = .illegal why) ↔
    (w.extractLsb' 8 56 ≠ 0 ∨ w.extractLsb' 0 8 = 0 ∨ 7 ≤ (w.extractLsb' 0 8).toNat)) ∧
  ∀ s : State, s.status.busy = true → (∃ why, decode s.pend = .illegal why) →
    ∃ t, engineTurn s = .next t ∧ CompletedWith .illegalCmd s t ∧ OnlyStatusChanged s t

/-- A few words of 95_test_vectors.md V-ENC (a sanity statement). The spec says Illegal alone of the four illegal words;
the kind of each that is named here is the model's, not the spec's (note 11). -/
def Obligations.DecodeOfWrittenOutWords : Prop :=
  decode 0x0000000000000001 = .command .init ∧ decode 0x0000000000000002 = .command .compress ∧
  decode 0x0000000000000003 = .command .digest ∧ decode 0x0000000000000006 = .command .read ∧
  decode 0x0000000000000000 = .illegal .unassignedOpcode ∧ decode 0x0000000000000007 = .illegal .unassignedOpcode ∧
  decode 0x0000000000000102 = .illegal .reservedBits ∧ decode 0x8000000000000002 = .illegal .reservedBits

/-- The six rows of the opcode table, read as `decodeTableWord` numbers bits, give the constructor LAWS.json maps to
the row's mnemonic. A word so read, placed by `withFetchWord`, is what the next step performs: that placing is the
model's choice (note 6), which puts the engine's turn next and, while BUSY = 1, replaces the pending word, as no host
can. -/
def Obligations.TableWordIsWhatTheNextStepPerforms : Prop :=
  (decodeTableWord 64 0x1 = some .init ∧ decodeTableWord 64 0x2 = some .compress ∧
    decodeTableWord 64 0x3 = some .digest ∧ decodeTableWord 64 0x4 = some .extract ∧
    decodeTableWord 64 0x5 = some .dump ∧ decodeTableWord 64 0x6 = some .read) ∧
  ∀ (s : State) (nbits w : Nat) (i : Instr), decodeTableWord nbits w = some i →
    step (s.withFetchWord nbits w) = exec i (accept (encode i) s)

/-! ### The command lifecycle (60_exceptions.md, section 1) -/

/-- R231: a write to CMD while BUSY = 0 accepts the word, whatever it is; while BUSY = 1 it is no acceptance and is
discarded with OVR set. -/
def Obligations.CmdWriteAcceptsTheWord : Prop :=
  ∀ (s : State) (w : Word),
    (s.status.busy = false → portWrite 0x0000 w s =
      (⟨.okay, none⟩,
        { s with pend := w, status := { busy := true, done := false, err := false, ovr := s.status.ovr, errcode := .none } })) ∧
    (s.status.busy = true → portWrite 0x0000 w s =
      (⟨.okay, none⟩, { s with status := { s.status with ovr := true } }))

/-- When the engine agent moves while BUSY = 1, the whole command in PEND is performed as one step (60_exceptions.md
section 1, Performing): `exec` of the decoded command, at the state with that turn taken off the events; and an illegal
word raises ILLEGAL_CMD. That the agent also moves when no event is left to come is the model's choice (note 7). -/
def Obligations.StepPerformsThePendingCommand : Prop :=
  ∀ s : State, s.status.busy = true → EngineMoves s →
    (∀ i, decode s.pend = .command i → step s = exec i (s.setEvents s.events.tail)) ∧
    (∀ why, decode s.pend = .illegal why → step s = raiseError .illegalCmd (s.setEvents s.events.tail))

/-- While BUSY = 0 the engine agent has no step (60_exceptions.md section 1): its turn changes nothing. That a machine
with no event to come then stays as it is, is the model's choice (note 7). -/
def Obligations.IdleEngineHasNoStep : Prop :=
  ∀ s : State, s.status.busy = false →
    engineTurn s = .next s ∧ (s.events = [] → step s = .next s) ∧
    (∀ rest, s.events = .engine :: rest → step s = .next (s.setEvents rest))

/-- R232: every performed command, legal or not, ends with the completion of some code, and the engine agent then has
no step. -/
def Obligations.EveryCommandEndsWithCompletion : Prop :=
  (∀ (i : Instr) (s : State), ∃ (c : ErrCode) (t : State),
    exec i s = .next t ∧ CompletedWith c s t ∧ engineTurn t = .next t) ∧
  ∀ s : State, s.status.busy = true → ∃ (c : ErrCode) (t : State),
    engineTurn s = .next t ∧ CompletedWith c s t ∧ engineTurn t = .next t

/-- R236: a command that ends in an error writes STATUS and nothing else: H, LEN, BLKCNT, MSG, RAW and HEX keep their
values (and CTRL with them). -/
def Obligations.ErrorChangesOnlyStatus : Prop :=
  (∀ (i : Instr) (s t : State), exec i s = .next t → t.status.err = true →
    ∃ c, c ≠ .none ∧ CompletedWith c s t ∧ OnlyStatusChanged s t) ∧
  ∀ (c : ErrCode) (s : State), ∃ t, raiseError c s = .next t ∧ CompletedWith c s t ∧ OnlyStatusChanged s t

/-- R240: of the errors that apply to a command the first in the order of the rule is reported: the encoding, then
LEN_RANGE, then LEN_ALIGN, then HEX_MALFORMED; with none of them, no error. -/
def Obligations.FirstErrorInOrderIsReported : Prop :=
  (∀ (i : Instr) (s : State), ∃ t, exec i s = .next t ∧ t.status.errcode =
    (if (i = .compress ∨ i = .digest) ∧ s.msgBytes < s.len.toNat then .lenRange
     else if i = .compress ∧ s.len.toNat % 128 ≠ 0 then .lenAlign
     else if i = .read ∧ ¬HexWellFormed s.hex then .hexMalformed
     else .none)) ∧
  ∀ s : State, s.status.busy = true → (∃ why, decode s.pend = .illegal why) →
    ∃ t, engineTurn s = .next t ∧ t.status.errcode = .illegalCmd

/-- BUSY rises only by the acceptance of a word, and falls only by a completion of the engine agent or a reset
(10_state.md section 4, BUSY; 60_exceptions.md section 1; there is no abort, section 4). -/
def Obligations.BusyRisesByAcceptanceAndFallsByCompletion : Prop :=
  ∀ s t : State, step s = .next t →
    (s.status.busy = false → t.status.busy = true → ∃ w, HostMoves s (.write 0x0000 w) ∧ t.pend = w) ∧
    (s.status.busy = true → t.status.busy = false → (EngineMoves s ∧ t.status.done = true) ∨ ResetMoves s)

/-- Every accepted command completes (70_reset_and_hazards.md section 3, Completion): when the events still to come
have all happened, one more step leaves BUSY = 0. The bound is the model's fairness (note 7). -/
def Obligations.AcceptedCommandCompletes : Prop :=
  ∀ s : State, ∃ t : State, Sys2Proof.core.run (s.events.length + 1) s = .next t ∧ t.status.busy = false

/-- No step stops the machine, and none changes MSG_BYTES (60_exceptions.md section 2, No traps; 00_scope.md section 3,
`MSG_BYTES` is a parameter of the model). -/
def Obligations.NoStepStopsAndSizeIsFixed : Prop :=
  ∀ s : State, ∃ t, step s = .next t ∧ t.msgBytes = s.msgBytes

/-! ### INIT and COMPRESS (42_compression.md) -/

/-- R160: INIT, the word 1, loads the initialization vector into H, completes without error, and touches nothing
else. -/
def Obligations.InitLoadsTheInitializationVector : Prop :=
  encode .init = 0x0000000000000001 ∧ ∀ s : State, ∃ t, exec .init s = .next t ∧
    t.h = #v[0x6a09e667f3bcc908, 0xbb67ae8584caa73b, 0x3c6ef372fe94f82b, 0xa54ff53a5f1d36f1,
             0x510e527fade682d1, 0x9b05688c2b3e6c1f, 0x1f83d9abfb41bd6b, 0x5be0cd19137e2179] ∧
    CompletedWith .none s t ∧ CommandFrame s t ∧ t.raw = s.raw ∧ t.hex = s.hex ∧ t.blkcnt = s.blkcnt

/-- R165: COMPRESS, the word 2, folds the LEN/128 blocks MSG[128j..128j+128) into H in order and counts them in BLKCNT; a LEN above
MSG_BYTES is LEN_RANGE, and else a LEN that is no multiple of 128 is LEN_ALIGN, each with H and BLKCNT unchanged. -/
def Obligations.CompressFoldsWholeBlocks : Prop :=
  encode .compress = 0x0000000000000002 ∧ ∀ s : State,
    (s.len.toNat ≤ s.msgBytes → s.len.toNat % 128 = 0 → ∃ t, exec .compress s = .next t ∧
      t.h = ((List.range (s.len.toNat / 128)).map fun j => memRead s (128 * j) 128).foldl compressBlock s.h ∧
      t.blkcnt.toNat = s.len.toNat / 128 ∧
      CompletedWith .none s t ∧ CommandFrame s t ∧ t.raw = s.raw ∧ t.hex = s.hex) ∧
    (s.msgBytes < s.len.toNat → ∃ t, exec .compress s = .next t ∧
      CompletedWith .lenRange s t ∧ OnlyStatusChanged s t) ∧
    (s.len.toNat ≤ s.msgBytes → s.len.toNat % 128 ≠ 0 → ∃ t, exec .compress s = .next t ∧
      CompletedWith .lenAlign s t ∧ OnlyStatusChanged s t)

/-- The composition the spec derives as R166 (42_compression.md section 3): COMPRESS over the blocks X and then, from the H it left, over the blocks Y gives the H of one COMPRESS over
X ‖ Y. -/
def Obligations.CompressComposesOverCommands : Prop :=
  ∀ (p q : Nat) (sx sy sxy tx : State),
    sx.len.toNat = 128 * p → sy.len.toNat = 128 * q → sxy.len.toNat = 128 * (p + q) →
    sx.len.toNat ≤ sx.msgBytes → sy.len.toNat ≤ sy.msgBytes → sxy.len.toNat ≤ sxy.msgBytes →
    (∀ i < 128 * p, messageByte sxy i = messageByte sx i) →
    (∀ i < 128 * q, messageByte sxy (128 * p + i) = messageByte sy i) →
    sxy.h = sx.h → exec .compress sx = .next tx → sy.h = tx.h →
    ∃ ty txy, exec .compress sy = .next ty ∧ exec .compress sxy = .next txy ∧ txy.h = ty.h

/-- R151: the message schedule of a block: W[0..15] are its big-endian words, and the recurrence gives W[16..79]. -/
def Obligations.MessageScheduleFollowsItsRecurrence : Prop :=
  ∀ b : List Byte, (schedule b).length = 80 ∧
    (∀ i < 16, (schedule b)[i]? = some (BitVec.ofNat 64 (fromBigEndian ((b.drop (8 * i)).take 8)))) ∧
    (∀ t, 16 ≤ t → t < 80 → ∃ w2 w7 w15 w16,
      (schedule b)[t - 2]? = some w2 ∧ (schedule b)[t - 7]? = some w7 ∧
      (schedule b)[t - 15]? = some w15 ∧ (schedule b)[t - 16]? = some w16 ∧
      (schedule b)[t]? = some (smallSigma1 w2 + w7 + smallSigma0 w15 + w16))

/-- R152, R153 and R154: F loads the working register from Hin, runs the 80 rounds in increasing t, each on the values
from before it, and adds the last working register word-wise onto Hin. -/
def Obligations.CompressionRunsEightyRounds : Prop :=
  ∀ (h : Chain) (b : List Byte), ∃ r : Nat → Work,
    r 0 = ⟨h[0], h[1], h[2], h[3], h[4], h[5], h[6], h[7]⟩ ∧
    (∀ t < 80, ∃ k w t1 t2, roundConstants[t]? = some k ∧ (schedule b)[t]? = some w ∧
      t1 = (r t).h + bigSigma1 (r t).e + choose (r t).e (r t).f (r t).g + k + w ∧
      t2 = bigSigma0 (r t).a + majority (r t).a (r t).b (r t).c ∧
      r (t + 1) = ⟨t1 + t2, (r t).a, (r t).b, (r t).c, (r t).d + t1, (r t).e, (r t).f, (r t).g⟩) ∧
    compressBlock h b =
      #v[h[0] + (r 80).a, h[1] + (r 80).b, h[2] + (r 80).c, h[3] + (r 80).d,
         h[4] + (r 80).e, h[5] + (r 80).f, h[6] + (r 80).g, h[7] + (r 80).h]

/-! ### Word functions and tables (00_scope.md section 4; 40_functions.md) -/

/-- ROTR is a right rotation and SHR a right shift with zeros shifted in, bit by bit (00_scope.md section 4). -/
def Obligations.RotateAndShiftMoveBits : Prop :=
  ∀ (x : Word) (n i : Nat), 0 < n → n < 64 → i < 64 →
    (rotr x n).getLsbD i = x.getLsbD ((i + n) % 64) ∧
    (shr x n).getLsbD i = (decide (i + n < 64) && x.getLsbD (i + n))

/-- R105 and R106: each bit of x chooses the bit of y or of z; each bit of Maj is the majority of the three. -/
def Obligations.ChooseAndMajorityActBitwise : Prop :=
  ∀ (x y z : Word) (i : Nat), i < 64 →
    (choose x y z).getLsbD i = (if x.getLsbD i then y.getLsbD i else z.getLsbD i) ∧
    ((majority x y z).getLsbD i = true ↔
      2 ≤ (x.getLsbD i).toNat + (y.getLsbD i).toNat + (z.getLsbD i).toNat) ∧
    choose x y z = (x &&& y) ^^^ (~~~x &&& z) ∧ majority x y z = (x &&& y) ^^^ (x &&& z) ^^^ (y &&& z)

/-- The corner cases of the word functions, which the spec derives as R108 (40_functions.md section 1). -/
def Obligations.WordFunctionCornerCases : Prop :=
  (bigSigma0 0 = 0 ∧ bigSigma1 0 = 0 ∧ smallSigma0 0 = 0 ∧ smallSigma1 0 = 0) ∧
  (bigSigma0 0xFFFFFFFFFFFFFFFF = 0xFFFFFFFFFFFFFFFF ∧ bigSigma1 0xFFFFFFFFFFFFFFFF = 0xFFFFFFFFFFFFFFFF) ∧
  (smallSigma0 0xFFFFFFFFFFFFFFFF = 0x01FFFFFFFFFFFFFF ∧ smallSigma1 0xFFFFFFFFFFFFFFFF = 0x03FFFFFFFFFFFFFF) ∧
  (∀ x y : Word, choose x y y = y) ∧ (∀ y z : Word, choose 0 y z = z) ∧
  (∀ y z : Word, choose 0xFFFFFFFFFFFFFFFF y z = y) ∧ (∀ x z : Word, majority x x z = x) ∧
  (0xFFFFFFFFFFFFFFFF : Word) + 2 = 1

/-- R112: the constant tables are the first 64 bits of the fractional parts of the square roots of the first 8 primes and
of the cube roots of the first 80 primes. -/
def Obligations.ConstantTablesAreRootsOfPrimes : Prop :=
  roundConstants.length = 80 ∧
  (∀ (i : Nat) (hi : i < 8), ∃ r : Nat, r ^ 2 ≤ Nat.nth Nat.Prime i * 2 ^ 128 ∧
    Nat.nth Nat.Prime i * 2 ^ 128 < (r + 1) ^ 2 ∧ initVector[i] = BitVec.ofNat 64 r) ∧
  (∀ t < 80, ∃ r : Nat, r ^ 3 ≤ Nat.nth Nat.Prime t * 2 ^ 192 ∧ Nat.nth Nat.Prime t * 2 ^ 192 < (r + 1) ^ 3 ∧
    roundConstants[t]? = some (BitVec.ofNat 64 r))

/-! ### Padding (41_padding.md) -/

/-- R130: Pad(m) is m, 0x80, the least number Z of zero bytes that makes the length 112 modulo 128, and the bit length
as 16 big-endian bytes. (The closed form of Z is the one the spec derives. A bit length that does not fit the field
cannot arise in this engine: 41_padding.md section 1. Where R132 contradicts itself on the field's bytes, R130's field is
followed: note 13.) -/
def Obligations.PaddingAppendsMarkZerosAndBitLength : Prop :=
  ∀ m : List Byte, 8 * m.length < 2 ^ 128 →
    ∃ (z : Nat) (field : List Byte), pad m = m ++ [0x80] ++ List.replicate z 0x00 ++ field ∧
      (m.length + 1 + z) % 128 = 112 ∧ (∀ y < z, (m.length + 1 + y) % 128 ≠ 112) ∧
      z = ((111 - (m.length : Int)) % 128).toNat ∧
      field.length = 16 ∧ fromBigEndian field = 8 * m.length

/-- The block counts the spec derives as R133, R134 and R135 (41_padding.md section 1): the padded message is N(L) whole blocks, at least one, and one or two more than the message
has whole blocks: two exactly when L mod 128 ≥ 112. -/
def Obligations.PaddedLengthIsWholeBlocks : Prop :=
  ∀ m : List Byte,
    (pad m).length = 128 * ((m.length + 16) / 128 + 1) ∧ (pad m).length = 128 * blockCount m.length ∧
    blockCount m.length = (m.length + 17 + 127) / 128 ∧ (blocksOf (pad m)).length = blockCount m.length ∧
    1 ≤ blockCount m.length ∧
    (∀ j < m.length / 128, (blocksOf (pad m))[j]? = some ((m.drop (128 * j)).take 128)) ∧
    blockCount m.length = m.length / 128 + (if 112 ≤ m.length % 128 then 2 else 1)

/-- Padding is reversible: two messages with the same padded form are equal (00_scope.md section 5, Padding:
"deterministic, reversible extension of a message"). -/
def Obligations.PaddingIsReversible : Prop :=
  ∀ m m' : List Byte, 8 * m.length < 2 ^ 128 → 8 * m'.length < 2 ^ 128 → pad m = pad m' → m = m'

/-! ### DIGEST and EXTRACT (43_digest.md) -/

/-- R182: DIGEST, the word 3, hashes MSG[0..LEN) from IV with padding: the final State stays in H, its serialisation goes to RAW and
N(LEN) to BLKCNT; a LEN above MSG_BYTES is LEN_RANGE with H, RAW and BLKCNT unchanged. HEX and MSG never change. -/
def Obligations.DigestHashesTheMessage : Prop :=
  encode .digest = 0x0000000000000003 ∧ ∀ s : State,
    (s.len.toNat ≤ s.msgBytes → ∃ t, exec .digest s = .next t ∧
      t.h = (blocksOf (pad (memRead s 0 s.len.toNat))).foldl compressBlock initVector ∧
      (∀ (k j : Nat) (hk : k < 8) (hj : j < 8), t.raw[8 * k + j] = t.h[k].extractLsb' (56 - 8 * j) 8) ∧
      t.blkcnt.toNat = (s.len.toNat + 16) / 128 + 1 ∧
      CompletedWith .none s t ∧ CommandFrame s t ∧ t.hex = s.hex) ∧
    (s.msgBytes < s.len.toNat → ∃ t, exec .digest s = .next t ∧
      CompletedWith .lenRange s t ∧ OnlyStatusChanged s t)

/-- What DIGEST leaves in H, RAW, BLKCNT and STATUS's code depends only on LEN and MSG[0..LEN), and not on H, on the
other bytes of MSG or on the size of the buffer that holds them (43_digest.md section 2; 41_padding.md section 2). -/
def Obligations.DigestDependsOnlyOnTheMessage : Prop :=
  ∀ s s' t t' : State, s'.len = s.len → s.len.toNat ≤ s.msgBytes → s'.len.toNat ≤ s'.msgBytes →
    (∀ i < s.len.toNat, messageByte s' i = messageByte s i) →
    exec .digest s = .next t → exec .digest s' = .next t' →
    t'.h = t.h ∧ t'.raw = t.raw ∧ t'.blkcnt = t.blkcnt ∧ t'.status.errcode = t.status.errcode

/-- The digest of the empty message is the one the source gives (40_functions.md section 2, Evidence;
95_test_vectors.md V-SRC-1). -/
def Obligations.DigestOfTheEmptyMessage : Prop :=
  ∀ s : State, s.len = 0 → ∃ t, exec .digest s = .next t ∧
    t.h = #v[0xcf83e1357eefb8bd, 0xf1542850d66d8007, 0xd620e4050b5715dc, 0x83f4a921d36ce9ce,
             0x47d0d13c5d85f2b0, 0xff8318d2877eec2f, 0x63b931bd47417a81, 0xa538327af927da3e] ∧
    t.raw = serialise t.h ∧ t.blkcnt = 1

/-- The equivalence the spec derives as R187 (43_digest.md section 3): DIGEST of a message, and INIT, COMPRESS, EXTRACT over its padded form, leave RAW, H and BLKCNT equal. -/
def Obligations.DigestEqualsInitCompressExtract : Prop :=
  ∀ a b : State, a.len.toNat ≤ a.msgBytes →
    b.len.toNat = 128 * blockCount a.len.toNat → b.len.toNat ≤ b.msgBytes →
    (∀ i < b.len.toNat, some (messageByte b i) = (pad (memRead a 0 a.len.toNat))[i]?) →
    ∃ ta b1 b2 tb, exec .digest a = .next ta ∧
      exec .init b = .next b1 ∧ exec .compress b1 = .next b2 ∧ exec .extract b2 = .next tb ∧
      tb.raw = ta.raw ∧ tb.h = ta.h ∧ tb.blkcnt = ta.blkcnt ∧ tb.blkcnt.toNat = blockCount a.len.toNat

/-- R186: EXTRACT, the word 4, serialises H big-endian into RAW and changes nothing else but STATUS. -/
def Obligations.ExtractSerialisesTheChain : Prop :=
  encode .extract = 0x0000000000000004 ∧ ∀ s : State, ∃ t, exec .extract s = .next t ∧
    (∀ (k j : Nat) (hk : k < 8) (hj : j < 8), t.raw[8 * k + j] = s.h[k].extractLsb' (56 - 8 * j) 8) ∧
    CompletedWith .none s t ∧ CommandFrame s t ∧ t.h = s.h ∧ t.hex = s.hex ∧ t.blkcnt = s.blkcnt

/-- What the spec derives as R58 (20_memory.md section 2): H[i] reads and writes as one whole word at 0x0040 + 8i, and after EXTRACT the RAW word at 0x0080 + 8k reads
equal to H[k]. -/
def Obligations.RawWordsReadAsTheChainAfterExtract : Prop :=
  (∀ (s : State) (i : Nat) (hi : i < 8) (v : Word), s.status.busy = false →
    portRead (BitVec.ofNat 64 (0x0040 + 8 * i)) s = (⟨.okay, some s.h[i]⟩, s) ∧
    portWrite (BitVec.ofNat 64 (0x0040 + 8 * i)) v s = (⟨.okay, none⟩, { s with h := s.h.set i v })) ∧
  ∀ (s : State) (k : Nat) (hk : k < 8), ∃ t, exec .extract s = .next t ∧
    portRead (BitVec.ofNat 64 (0x0080 + 8 * k)) t = (⟨.okay, some s.h[k]⟩, t)

/-! ### DUMP and READ (44_codec.md) -/

/-- R205: DUMP, the word 5, writes the 128 lowercase hex digits of RAW, most significant nibble first, and the NUL into HEX, and
changes nothing else but STATUS. -/
def Obligations.DumpWritesLowercaseHex : Prop :=
  encode .dump = 0x0000000000000005 ∧ ∀ s : State, ∃ t, exec .dump s = .next t ∧
    (∀ (i : Nat) (hi : i < 64),
      some t.hex[2 * i] = ([0x30, 0x31, 0x32, 0x33, 0x34, 0x35, 0x36, 0x37, 0x38, 0x39,
        0x61, 0x62, 0x63, 0x64, 0x65, 0x66] : List Byte)[s.raw[i].toNat / 16]? ∧
      some t.hex[2 * i + 1] = ([0x30, 0x31, 0x32, 0x33, 0x34, 0x35, 0x36, 0x37, 0x38, 0x39,
        0x61, 0x62, 0x63, 0x64, 0x65, 0x66] : List Byte)[s.raw[i].toNat % 16]?) ∧
    t.hex[128] = 0x00 ∧
    CompletedWith .none s t ∧ CommandFrame s t ∧ t.h = s.h ∧ t.raw = s.raw ∧ t.blkcnt = s.blkcnt

/-- R208: hexval gives 0 to 9 for the digits, 10 to 15 for the letters of either case, and nothing for every other
byte. -/
def Obligations.HexDigitValues : Prop :=
  ∀ (c : Byte) (n : Nat), hexValue c = some n ↔
    ((0x30 ≤ c.toNat ∧ c.toNat ≤ 0x39 ∧ n + 0x30 = c.toNat) ∨
     (0x61 ≤ c.toNat ∧ c.toNat ≤ 0x66 ∧ n + 0x61 = c.toNat + 10) ∨
     (0x41 ≤ c.toNat ∧ c.toNat ≤ 0x46 ∧ n + 0x41 = c.toNat + 10))

/-- R212: READ, the word 6, decodes a well-formed HEX into RAW, two digits a byte; a HEX that is not well formed is HEX_MALFORMED
with RAW unchanged. HEX never changes. -/
def Obligations.ReadDecodesWellFormedHex : Prop :=
  encode .read = 0x0000000000000006 ∧ ∀ s : State,
    ((s.hex[128] = 0x00 ∧ ∀ (i : Nat) (_ : i < 128), ∃ n, hexValue s.hex[i] = some n) →
      ∃ t, exec .read s = .next t ∧
        (∀ (i : Nat) (_ : i < 64) (hi lo : Nat), hexValue s.hex[2 * i] = some hi → hexValue s.hex[2 * i + 1] = some lo →
          t.raw[i].toNat = hi * 16 + lo) ∧
        CompletedWith .none s t ∧ CommandFrame s t ∧ t.h = s.h ∧ t.hex = s.hex ∧ t.blkcnt = s.blkcnt) ∧
    ((s.hex[128] ≠ 0x00 ∨ ∃ (i : Nat) (_ : i < 128), hexValue s.hex[i] = none) →
      ∃ t, exec .read s = .next t ∧ CompletedWith .hexMalformed s t ∧ OnlyStatusChanged s t)

/-- R213: a text of 127 characters, one of 129, and one with a 'g' among its 128 are rejected, with RAW unchanged. -/
def Obligations.MalformedHexIsRejected : Prop :=
  ∀ s : State, (s.hex[127] = 0x00 ∨ s.hex[128] ≠ 0x00 ∨ ∃ (i : Nat) (_ : i < 128), s.hex[i] = 0x67) →
    ∃ t, exec .read s = .next t ∧ t.status.err = true ∧ t.status.errcode = .hexMalformed ∧ t.raw = s.raw

/-- What the spec derives as R210 (44_codec.md section 2): the one check of well-formedness is that the text, measured to its first NUL, has 128 characters that are
all hex digits. -/
def Obligations.WellFormedHexHasLength128 : Prop :=
  ∀ t : Vector Byte 129, HexWellFormed t ↔
    (textLength t = 128 ∧ ∀ (i : Nat) (_ : i < 128), (hexValue t[i]).isSome)

/-- The round trips the spec derives as R214 (44_codec.md section 3): DUMP then READ leaves RAW as it was, without error; READ then DUMP leaves a well-formed HEX without uppercase
as it was. -/
def Obligations.CodecRoundTrips : Prop :=
  (∀ s : State, ∃ t u, exec .dump s = .next t ∧ exec .read t = .next u ∧ u.raw = s.raw ∧ u.status.err = false ∧
    HexWellFormed t.hex) ∧
  ∀ s : State, HexWellFormed s.hex → (∀ (i : Nat) (_ : i < 128), ¬(0x41 ≤ s.hex[i].toNat ∧ s.hex[i].toNat ≤ 0x46)) →
    ∃ t u, exec .read s = .next t ∧ exec .dump t = .next u ∧ u.hex = s.hex ∧ t.status.err = false

/-- What the spec derives as R215 (44_codec.md section 3): Hex is injective, and over all well-formed texts DUMP after READ gives the lowercase form of the text. -/
def Obligations.DecodingNormalisesCase : Prop :=
  (∀ r r' : Vector Byte 64, hexEncode r = hexEncode r' → r = r') ∧
  ∀ s : State, HexWellFormed s.hex → ∃ t u, exec .read s = .next t ∧ exec .dump t = .next u ∧
    ∀ (i : Nat) (_ : i < 128), u.hex[i] =
      if 0x41 ≤ s.hex[i].toNat ∧ s.hex[i].toNat ≤ 0x46 then s.hex[i] + 0x20 else s.hex[i]

/-! ### What the commands touch -/

/-- The "written by (engine)" column of the inventory of host-visible state (10_state.md section 1), and the engine's
writes (20_memory.md section 3): no command writes LEN, CTRL, OVR or any byte of MSG, and each writes only the
registers the table gives it. -/
def Obligations.EachRegisterHasItsWriters : Prop :=
  ∀ (i : Instr) (s t : State), exec i s = .next t →
    CommandFrame s t ∧ t.msg = s.msg ∧
    (i ≠ .init → i ≠ .compress → i ≠ .digest → t.h = s.h) ∧ (i ≠ .compress → i ≠ .digest → t.blkcnt = s.blkcnt) ∧
    (i ≠ .digest → i ≠ .extract → i ≠ .read → t.raw = s.raw) ∧ (i ≠ .dump → t.hex = s.hex)

/-- R26: BLKCNT holds LEN / 128 after a COMPRESS and N(LEN) after a DIGEST that completed without error; other
commands, errors and host writes leave it. -/
def Obligations.BlkcntCountsCompressions : Prop :=
  (∀ (i : Instr) (s t : State), exec i s = .next t →
    (i = .compress → t.status.err = false → t.blkcnt.toNat = s.len.toNat / 128) ∧
    (i = .digest → t.status.err = false → t.blkcnt.toNat = (s.len.toNat + 16) / 128 + 1) ∧
    ((i ≠ .compress ∧ i ≠ .digest) ∨ t.status.err = true → t.blkcnt = s.blkcnt)) ∧
  (∀ (s : State) (v : Word), (portWrite 0x0020 v s).2.blkcnt = s.blkcnt ∧
    (s.status.busy = false → portWrite 0x0020 v s = (⟨.okay, none⟩, s) ∧
      portRead 0x0020 s = (⟨.okay, some s.blkcnt⟩, s))) ∧
  State.reset.blkcnt = 0

/-- No command reads PEND or the working values left by an earlier one (10_state.md section 7). That the states after it
agree in PEND and the working values too, which the spec leaves unspecified there, is the model's choice: a completion
draws them from one function of the count of draws (note 4). -/
def Obligations.HiddenStateIsNeverRead : Prop :=
  ∀ (i : Instr) (s : State) (p : Word) (w : Scratch), exec i { s with pend := p, scratch := w } = exec i s

/-! ### The host port (20_memory.md; 10_state.md sections 4 and 5) -/

/-- R52: a misaligned transaction answers SLVERR, returns no data and changes no state. -/
def Obligations.MisalignedTransactionsAnswerSlverr : Prop :=
  ∀ (s : State) (addr v : Word), addr.toNat % 8 ≠ 0 →
    portRead addr s = (⟨.slverr, none⟩, s) ∧ portWrite addr v s = (⟨.slverr, none⟩, s)

/-- R55: an aligned transaction to an address the map leaves unmapped answers DECERR, returns no data and changes no
state, whatever BUSY is; a DECERR or SLVERR response sets no STATUS bit. -/
def Obligations.UnmappedTransactionsAnswerDecerr : Prop :=
  (∀ (s : State) (t : Txn), (transact t s).1.resp ≠ .okay → (transact t s).2.status = s.status) ∧
  ∀ (s : State) (addr v : Word), addr.toNat % 8 = 0 →
    ((0x0028 ≤ addr.toNat ∧ addr.toNat ≤ 0x003F) ∨ (0x0148 ≤ addr.toNat ∧ addr.toNat ≤ 0x0FFF) ∨
      0x1000 + s.msgBytes ≤ addr.toNat) →
    portRead addr s = (⟨.decerr, none⟩, s) ∧ portWrite addr v s = (⟨.decerr, none⟩, s)

/-- While BUSY = 0, a word written to LEN, H, RAW, MSG or the first 16 words of HEX reads back as written, and both
transactions answer OKAY (20_memory.md section 1, Access while STATUS.BUSY = 0). -/
def Obligations.IdleWritesReadBack : Prop :=
  ∀ (s : State) (addr v : Word), s.status.busy = false → MappedAddress s.msgBytes addr.toNat →
    addr.toNat = 0x0018 ∨ (0x0040 ≤ addr.toNat ∧ addr.toNat < 0x0140) ∨ 0x1000 ≤ addr.toNat →
    ∃ t, portWrite addr v s = (⟨.okay, none⟩, t) ∧ portRead addr t = (⟨.okay, some v⟩, t)

/-- R56: buffer byte 8k + j of RAW, HEX and MSG is bits 63-8j:56-8j of the buffer's port word k; a port write stores
those 8 bytes and changes nothing else. -/
def Obligations.BufferWordsPackBigEndian : Prop :=
  (∀ (s : State) (addr v : Word) (k : Nat), s.status.busy = false → addr.toNat = 0x1000 + 8 * k → 8 * k < s.msgBytes →
    ∃ w t, portRead addr s = (⟨.okay, some w⟩, s) ∧
      portWrite addr v s = (⟨.okay, none⟩, t) ∧ { t with msg := s.msg } = s ∧
      (∀ j < 8, w.extractLsb' (56 - 8 * j) 8 = messageByte s (8 * k + j) ∧
        messageByte t (8 * k + j) = v.extractLsb' (56 - 8 * j) 8) ∧
      (∀ i, i / 8 ≠ k → messageByte t i = messageByte s i)) ∧
  ∀ (s : State) (k : Nat) (v : Word), s.status.busy = false →
    (∀ (_ : k < 8), ∃ w t, portRead (BitVec.ofNat 64 (0x0080 + 8 * k)) s = (⟨.okay, some w⟩, s) ∧
      portWrite (BitVec.ofNat 64 (0x0080 + 8 * k)) v s = (⟨.okay, none⟩, t) ∧ { t with raw := s.raw } = s ∧
      (∀ (j : Nat) (_ : j < 8), w.extractLsb' (56 - 8 * j) 8 = s.raw[8 * k + j] ∧
        t.raw[8 * k + j] = v.extractLsb' (56 - 8 * j) 8) ∧
      (∀ (i : Nat) (_ : i < 64), i / 8 ≠ k → t.raw[i] = s.raw[i])) ∧
    (∀ (_ : k < 16), ∃ w t, portRead (BitVec.ofNat 64 (0x00C0 + 8 * k)) s = (⟨.okay, some w⟩, s) ∧
      portWrite (BitVec.ofNat 64 (0x00C0 + 8 * k)) v s = (⟨.okay, none⟩, t) ∧ { t with hex := s.hex } = s ∧
      (∀ (j : Nat) (_ : j < 8), w.extractLsb' (56 - 8 * j) 8 = s.hex[8 * k + j] ∧
        t.hex[8 * k + j] = v.extractLsb' (56 - 8 * j) 8) ∧
      (∀ (i : Nat) (_ : i < 129), i / 8 ≠ k → t.hex[i] = s.hex[i]))

/-- R57: HEX word 16 holds HEX[128] in bits 63:56 and reads 0 below; a write stores only those bits. -/
def Obligations.LastHexWordHoldsOneByte : Prop :=
  ∀ (s : State) (v : Word), s.status.busy = false →
    ∃ w t, portRead 0x0140 s = (⟨.okay, some w⟩, s) ∧ w.extractLsb' 56 8 = s.hex[128] ∧ w.extractLsb' 0 56 = 0 ∧
      portWrite 0x0140 v s = (⟨.okay, none⟩, t) ∧ t = { s with hex := s.hex.set 128 (v.extractLsb' 56 8) }

/-- STATUS on the port (10_state.md section 4; the error codes of 60_exceptions.md section 2): the place of each field,
reserved bits 0, ERRCODE never 5 to 15; a write clears DONE and OVR where it has a 1, ignores everything else, and is
taken whatever BUSY is. -/
def Obligations.StatusFieldsAndWriteOneToClear : Prop :=
  ∀ (s : State) (v : Word), ∃ w, portRead 0x0008 s = (⟨.okay, some w⟩, s) ∧
    w.getLsbD 0 = s.status.busy ∧ w.getLsbD 1 = s.status.done ∧ w.getLsbD 2 = s.status.err ∧
    w.getLsbD 3 = s.status.ovr ∧ w.extractLsb' 4 4 = 0 ∧ w.extractLsb' 12 52 = 0 ∧
    (w.extractLsb' 8 4).toNat ≤ 4 ∧
    (w.extractLsb' 8 4 = 0 ↔ s.status.errcode = .none) ∧ (w.extractLsb' 8 4 = 1 ↔ s.status.errcode = .illegalCmd) ∧
    (w.extractLsb' 8 4 = 2 ↔ s.status.errcode = .lenRange) ∧ (w.extractLsb' 8 4 = 3 ↔ s.status.errcode = .lenAlign) ∧
    (w.extractLsb' 8 4 = 4 ↔ s.status.errcode = .hexMalformed) ∧
    portWrite 0x0008 v s = (⟨.okay, none⟩,
      { s with status := { s.status with
          done := s.status.done && !v.getLsbD 1, ovr := s.status.ovr && !v.getLsbD 3 } })

/-- R31: CTRL keeps bit 0 as IE, which enables the completion interrupt, and reads its other bits as 0; a write is taken
even while BUSY = 1; it is 0 at reset. -/
def Obligations.CtrlKeepsOnlyTheInterruptEnable : Prop :=
  ∀ (s : State) (v : Word),
    portWrite 0x0010 v s = (⟨.okay, none⟩, { s with ctrl := { ie := v.getLsbD 0 } }) ∧
    portRead 0x0010 s = (⟨.okay, some (if s.ctrl.ie then 1 else 0)⟩, s) ∧
    (portRead 0x0010 (portWrite 0x0010 v s).2).1.data = some (v &&& 1) ∧
    s.irq = (if s.ctrl.ie then s.status.done else false) ∧ State.reset.ctrl.ie = false

/-- R24: LEN takes every word the host writes while BUSY = 0, the engine never writes it, and it is 0 at reset; every
COMPRESS and DIGEST checks it when performed. -/
def Obligations.LenIsWrittenByTheHostAlone : Prop :=
  (∀ (s : State) (v : Word), s.status.busy = false → portWrite 0x0018 v s = (⟨.okay, none⟩, { s with len := v })) ∧
  (∀ s : State, portRead 0x0018 s = (⟨.okay, some s.len⟩, s)) ∧
  (∀ (s t : State), EngineMoves s → step s = .next t → t.len = s.len) ∧
  (∀ (s : State) (i : Instr), i = .compress ∨ i = .digest → s.msgBytes < s.len.toNat →
    ∃ t, exec i s = .next t ∧ t.status.errcode = .lenRange) ∧
  State.reset.len = 0

/-- R54: while BUSY = 1 every aligned transaction to a mapped address answers OKAY; STATUS, CTRL, LEN, MSG and CMD read
as when idle; H, RAW, HEX and BLKCNT read as some word (a free value: note 3); STATUS and CTRL writes take effect; every
other write is discarded and sets OVR. -/
def Obligations.AccessWhileBusy : Prop :=
  ∀ (s : State) (addr v : Word), s.status.busy = true → MappedAddress s.msgBytes addr.toNat →
    (¬MidUpdateAddress addr.toNat → addr ≠ 0x0008 → ∃ w, portRead addr s = (⟨.okay, some w⟩, s) ∧
      (portRead addr { s with status := { s.status with busy := false } }).1 = ⟨.okay, some w⟩) ∧
    (addr = 0x0008 → portRead addr s = (⟨.okay, some (statusWord s.status)⟩, s)) ∧
    (MidUpdateAddress addr.toNat → ∃ w t, portRead addr s = (⟨.okay, some w⟩, t) ∧ { t with draws := s.draws } = s) ∧
    (addr = 0x0008 → portWrite addr v s = (⟨.okay, none⟩, s.setStatus (statusAfterWrite v s.status))) ∧
    (addr = 0x0010 → portWrite addr v s = (⟨.okay, none⟩, s.setCtrl (ctrlAfterWrite v))) ∧
    (addr ≠ 0x0008 → addr ≠ 0x0010 →
      portWrite addr v s = (⟨.okay, none⟩, { s with status := { s.status with ovr := true } }))

/-- Reads have no side effect (20_memory.md section 3): none changes any register, whatever BUSY is, CMD reads 0, and
while BUSY = 0 a repeated read returns the same answer. The count of draws, which is the model's own (note 3), is left
out. -/
def Obligations.ReadsHaveNoSideEffect : Prop :=
  ∀ (s : State) (addr : Word),
    { (portRead addr s).2 with draws := s.draws } = s ∧ portRead 0x0000 s = (⟨.okay, some 0⟩, s) ∧
    (s.status.busy = false → (portRead addr s).2 = s ∧ (portRead addr (portRead addr s).2).1 = (portRead addr s).1)

/-- A command computes from the operands as they were at its acceptance (20_memory.md section 5): no host transaction
while BUSY = 1 changes H, LEN, MSG, RAW, HEX, BLKCNT or PEND, or ends the command. -/
def Obligations.OperandsAreStableWhileBusy : Prop :=
  ∀ (s : State) (t : Txn), s.status.busy = true →
    (hostTurn t s).h = s.h ∧ (hostTurn t s).len = s.len ∧ (∀ i, messageByte (hostTurn t s) i = messageByte s i) ∧
    (hostTurn t s).raw = s.raw ∧ (hostTurn t s).hex = s.hex ∧ (hostTurn t s).blkcnt = s.blkcnt ∧
    (hostTurn t s).pend = s.pend ∧ (hostTurn t s).status.busy = true

/-- R242: OVR is all that a write discarded while BUSY = 1 leaves. It rises only so, and falls only by a host write of 1
to STATUS bit 3 or a reset; no acceptance and no completion changes it; and it does not affect the command. (That PEND
and the working values agree as well, with OVR and without, is no part of the rule but the model's choice, note 4.) -/
def Obligations.OverrunIsStickyAndRecordsDiscardedWrites : Prop :=
  (∀ (s : State) (addr v : Word), s.status.busy = true → MappedAddress s.msgBytes addr.toNat → addr ≠ 0x0008 →
    addr ≠ 0x0010 → portWrite addr v s = (⟨.okay, none⟩, { s with status := { s.status with ovr := true } })) ∧
  (∀ (i : Instr) (s t : State), exec i s = .next t →
    exec i { s with status := { s.status with ovr := true } } =
      .next { t with status := { t.status with ovr := true } }) ∧
  (∀ (w : Word) (s : State), (accept w s).status.ovr = s.status.ovr) ∧
  ∀ s t : State, step s = .next t →
    (s.status.ovr = false → t.status.ovr = true → ∃ addr v, HostMoves s (.write addr v) ∧ s.status.busy = true ∧
      MappedAddress s.msgBytes addr.toNat ∧ addr ≠ 0x0008 ∧ addr ≠ 0x0010) ∧
    (s.status.ovr = true → t.status.ovr = false →
      (∃ v : Word, HostMoves s (.write 0x0008 v) ∧ v.getLsbD 3 = true) ∨ ResetMoves s)

/-! ### Interrupt (60_exceptions.md section 3) -/

/-- R245: irq is DONE masked by IE, a level. It rises only by a completion (with an error or without) or by a host write of 1 to
IE, and falls only by a write of 1 to STATUS bit 1, a write of 0 to IE, an acceptance, or a reset. -/
def Obligations.InterruptRisesAndFalls : Prop :=
  (∀ s : State, s.irq = true ↔ s.status.done = true ∧ s.ctrl.ie = true) ∧
  (∀ (i : Instr) (s t : State), exec i s = .next t → t.irq = s.ctrl.ie) ∧
  ∀ s t : State, step s = .next t →
    (s.irq = false → t.irq = true →
      (EngineMoves s ∧ s.status.busy = true ∧ t.status.busy = false) ∨
      ∃ v : Word, HostMoves s (.write 0x0010 v) ∧ v.getLsbD 0 = true) ∧
    (s.irq = true → t.irq = false →
      (∃ v : Word, HostMoves s (.write 0x0008 v) ∧ v.getLsbD 1 = true) ∨
      (∃ v : Word, HostMoves s (.write 0x0010 v) ∧ v.getLsbD 0 = false) ∨
      (∃ w : Word, HostMoves s (.write 0x0000 w) ∧ s.status.busy = false) ∨ ResetMoves s)

/-! ### Reset and invariants (70_reset_and_hazards.md section 1) -/

/-- The values of the reset table, at `State.reset` and after the reset event from every state, a command in progress
or not. MSG, PEND and the working values, which the table leaves unspecified, are not in the statement. -/
def Obligations.ResetPutsEveryRegister : Prop :=
  ∀ t : State, (t = State.reset ∨ ∃ s, ResetMoves s ∧ step s = .next t) →
    t.h = #v[0x6a09e667f3bcc908, 0xbb67ae8584caa73b, 0x3c6ef372fe94f82b, 0xa54ff53a5f1d36f1,
             0x510e527fade682d1, 0x9b05688c2b3e6c1f, 0x1f83d9abfb41bd6b, 0x5be0cd19137e2179] ∧
    t.len = 0 ∧ t.blkcnt = 0 ∧ (∀ (i : Nat) (_ : i < 64), t.raw[i] = 0x00) ∧
    (∀ (i : Nat) (_ : i < 129), t.hex[i] = 0x00) ∧ statusWord t.status = 0 ∧ ctrlWord t.ctrl = 0 ∧ t.irq = false

/-- R272: after reset the engine is idle, and its agent has no step until the host's first CMD write: until then BUSY
stays 0 over every step. -/
def Obligations.ResetLeavesTheEngineIdle : Prop :=
  (∀ s t : State, ResetMoves s → step s = .next t → t.status.busy = false ∧ engineTurn t = .next t) ∧
  State.reset.status.busy = false ∧ engineTurn State.reset = .next State.reset ∧
  ∀ s t : State, s.status.busy = false → (∀ w, ¬HostMoves s (.write 0x0000 w)) → step s = .next t →
    t.status.busy = false

/-- `State.reset` is coherent (the invariant of the next statement). -/
def Obligations.ResetStateIsCoherent : Prop := Coherent State.reset

/-- Every step keeps a coherent state coherent: the buffer has a legal size, MSG stays in canonical form and inside the
buffer, ERR stays the sign of a nonzero ERRCODE, and while BUSY = 1 the flags of the last completion stay clear
(00_scope.md section 3; 10_state.md sections 3 and 8; 60_exceptions.md section 1). -/
def Obligations.EveryStepKeepsCoherence : Prop :=
  ∀ s t : State, Coherent s → step s = .next t → Coherent t

/-! ### Host scripts (30_encoding.md section 2) -/

/-- R89: a script is encoded as its port transactions, and `cmd DIGEST` is the one write of 3 to address 0. -/
def Obligations.ScriptIsItsPortTransactions : Prop :=
  (∀ k, portTransactions (expand k (.cmd .digest)) = [.write 0x0000 0x0000000000000003]) ∧
  (∀ (es fs : List Event), portTransactions (es ++ fs) = portTransactions es ++ portTransactions fs) ∧
  ∀ (es : List Event) (t : Txn), t ∈ portTransactions es ↔ .host t ∈ es

/-- `exec <MNEMONIC>` from an idle engine (30_encoding.md section 2): the command word is accepted, each of the k polls
before the engine's turn reads BUSY = 1, and the last poll, after the command, reads BUSY = 0 (60_exceptions.md section
1). The spec lists the reads alone: the number of polls, the engine's turn among them and the one poll after it are the
model's choice of an interleaving (note 10). -/
def Obligations.ScriptExecWaitsForCompletion : Prop :=
  ∀ (s : State) (k : Nat) (i : Instr), s.status.busy = false → s.events = expand k (.exec i) →
    ∃ (t : State) (w : Word), Sys2Proof.core.run (k + 3) s = .next t ∧ t.status.busy = false ∧ t.status.done = true ∧
      w.getLsbD 0 = false ∧
      ∃ polls : List Answer, polls.length = k ∧ (∀ a ∈ polls, ∃ x, a = ⟨.okay, some x⟩ ∧ x.getLsbD 0 = true) ∧
        t.answers = ⟨.okay, some w⟩ :: (polls ++ ⟨.okay, none⟩ :: s.answers)
end

