-- ==== Sys2Proof/Laws/State.lean ====
section
/-! SUPPORT. One lemma per field per update of State, and the fields of the STATUS updates, all true by rfl. -/

namespace Sys2Proof.Machine

variable (s : State)

section
variable (v : Chain)
@[simp] theorem State.setH_h : (s.setH v).h = v := rfl
@[simp] theorem State.setH_len : (s.setH v).len = s.len := rfl
@[simp] theorem State.setH_blkcnt : (s.setH v).blkcnt = s.blkcnt := rfl
@[simp] theorem State.setH_msg : (s.setH v).msg = s.msg := rfl
@[simp] theorem State.setH_raw : (s.setH v).raw = s.raw := rfl
@[simp] theorem State.setH_hex : (s.setH v).hex = s.hex := rfl
@[simp] theorem State.setH_status : (s.setH v).status = s.status := rfl
@[simp] theorem State.setH_ctrl : (s.setH v).ctrl = s.ctrl := rfl
@[simp] theorem State.setH_pend : (s.setH v).pend = s.pend := rfl
@[simp] theorem State.setH_scratch : (s.setH v).scratch = s.scratch := rfl
@[simp] theorem State.setH_msgBytes : (s.setH v).msgBytes = s.msgBytes := rfl
@[simp] theorem State.setH_resets : (s.setH v).resets = s.resets := rfl
@[simp] theorem State.setH_draws : (s.setH v).draws = s.draws := rfl
@[simp] theorem State.setH_events : (s.setH v).events = s.events := rfl
@[simp] theorem State.setH_answers : (s.setH v).answers = s.answers := rfl
end

section
variable (v : Word)
@[simp] theorem State.setLen_h : (s.setLen v).h = s.h := rfl
@[simp] theorem State.setLen_len : (s.setLen v).len = v := rfl
@[simp] theorem State.setLen_blkcnt : (s.setLen v).blkcnt = s.blkcnt := rfl
@[simp] theorem State.setLen_msg : (s.setLen v).msg = s.msg := rfl
@[simp] theorem State.setLen_raw : (s.setLen v).raw = s.raw := rfl
@[simp] theorem State.setLen_hex : (s.setLen v).hex = s.hex := rfl
@[simp] theorem State.setLen_status : (s.setLen v).status = s.status := rfl
@[simp] theorem State.setLen_ctrl : (s.setLen v).ctrl = s.ctrl := rfl
@[simp] theorem State.setLen_pend : (s.setLen v).pend = s.pend := rfl
@[simp] theorem State.setLen_scratch : (s.setLen v).scratch = s.scratch := rfl
@[simp] theorem State.setLen_msgBytes : (s.setLen v).msgBytes = s.msgBytes := rfl
@[simp] theorem State.setLen_resets : (s.setLen v).resets = s.resets := rfl
@[simp] theorem State.setLen_draws : (s.setLen v).draws = s.draws := rfl
@[simp] theorem State.setLen_events : (s.setLen v).events = s.events := rfl
@[simp] theorem State.setLen_answers : (s.setLen v).answers = s.answers := rfl
end

section
variable (v : Word)
@[simp] theorem State.setBlkcnt_h : (s.setBlkcnt v).h = s.h := rfl
@[simp] theorem State.setBlkcnt_len : (s.setBlkcnt v).len = s.len := rfl
@[simp] theorem State.setBlkcnt_blkcnt : (s.setBlkcnt v).blkcnt = v := rfl
@[simp] theorem State.setBlkcnt_msg : (s.setBlkcnt v).msg = s.msg := rfl
@[simp] theorem State.setBlkcnt_raw : (s.setBlkcnt v).raw = s.raw := rfl
@[simp] theorem State.setBlkcnt_hex : (s.setBlkcnt v).hex = s.hex := rfl
@[simp] theorem State.setBlkcnt_status : (s.setBlkcnt v).status = s.status := rfl
@[simp] theorem State.setBlkcnt_ctrl : (s.setBlkcnt v).ctrl = s.ctrl := rfl
@[simp] theorem State.setBlkcnt_pend : (s.setBlkcnt v).pend = s.pend := rfl
@[simp] theorem State.setBlkcnt_scratch : (s.setBlkcnt v).scratch = s.scratch := rfl
@[simp] theorem State.setBlkcnt_msgBytes : (s.setBlkcnt v).msgBytes = s.msgBytes := rfl
@[simp] theorem State.setBlkcnt_resets : (s.setBlkcnt v).resets = s.resets := rfl
@[simp] theorem State.setBlkcnt_draws : (s.setBlkcnt v).draws = s.draws := rfl
@[simp] theorem State.setBlkcnt_events : (s.setBlkcnt v).events = s.events := rfl
@[simp] theorem State.setBlkcnt_answers : (s.setBlkcnt v).answers = s.answers := rfl
end

section
variable (v : Memory)
@[simp] theorem State.setMsg_h : (s.setMsg v).h = s.h := rfl
@[simp] theorem State.setMsg_len : (s.setMsg v).len = s.len := rfl
@[simp] theorem State.setMsg_blkcnt : (s.setMsg v).blkcnt = s.blkcnt := rfl
@[simp] theorem State.setMsg_msg : (s.setMsg v).msg = v := rfl
@[simp] theorem State.setMsg_raw : (s.setMsg v).raw = s.raw := rfl
@[simp] theorem State.setMsg_hex : (s.setMsg v).hex = s.hex := rfl
@[simp] theorem State.setMsg_status : (s.setMsg v).status = s.status := rfl
@[simp] theorem State.setMsg_ctrl : (s.setMsg v).ctrl = s.ctrl := rfl
@[simp] theorem State.setMsg_pend : (s.setMsg v).pend = s.pend := rfl
@[simp] theorem State.setMsg_scratch : (s.setMsg v).scratch = s.scratch := rfl
@[simp] theorem State.setMsg_msgBytes : (s.setMsg v).msgBytes = s.msgBytes := rfl
@[simp] theorem State.setMsg_resets : (s.setMsg v).resets = s.resets := rfl
@[simp] theorem State.setMsg_draws : (s.setMsg v).draws = s.draws := rfl
@[simp] theorem State.setMsg_events : (s.setMsg v).events = s.events := rfl
@[simp] theorem State.setMsg_answers : (s.setMsg v).answers = s.answers := rfl
end

section
variable (v : Vector Byte 64)
@[simp] theorem State.setRaw_h : (s.setRaw v).h = s.h := rfl
@[simp] theorem State.setRaw_len : (s.setRaw v).len = s.len := rfl
@[simp] theorem State.setRaw_blkcnt : (s.setRaw v).blkcnt = s.blkcnt := rfl
@[simp] theorem State.setRaw_msg : (s.setRaw v).msg = s.msg := rfl
@[simp] theorem State.setRaw_raw : (s.setRaw v).raw = v := rfl
@[simp] theorem State.setRaw_hex : (s.setRaw v).hex = s.hex := rfl
@[simp] theorem State.setRaw_status : (s.setRaw v).status = s.status := rfl
@[simp] theorem State.setRaw_ctrl : (s.setRaw v).ctrl = s.ctrl := rfl
@[simp] theorem State.setRaw_pend : (s.setRaw v).pend = s.pend := rfl
@[simp] theorem State.setRaw_scratch : (s.setRaw v).scratch = s.scratch := rfl
@[simp] theorem State.setRaw_msgBytes : (s.setRaw v).msgBytes = s.msgBytes := rfl
@[simp] theorem State.setRaw_resets : (s.setRaw v).resets = s.resets := rfl
@[simp] theorem State.setRaw_draws : (s.setRaw v).draws = s.draws := rfl
@[simp] theorem State.setRaw_events : (s.setRaw v).events = s.events := rfl
@[simp] theorem State.setRaw_answers : (s.setRaw v).answers = s.answers := rfl
end

section
variable (v : Vector Byte 129)
@[simp] theorem State.setHex_h : (s.setHex v).h = s.h := rfl
@[simp] theorem State.setHex_len : (s.setHex v).len = s.len := rfl
@[simp] theorem State.setHex_blkcnt : (s.setHex v).blkcnt = s.blkcnt := rfl
@[simp] theorem State.setHex_msg : (s.setHex v).msg = s.msg := rfl
@[simp] theorem State.setHex_raw : (s.setHex v).raw = s.raw := rfl
@[simp] theorem State.setHex_hex : (s.setHex v).hex = v := rfl
@[simp] theorem State.setHex_status : (s.setHex v).status = s.status := rfl
@[simp] theorem State.setHex_ctrl : (s.setHex v).ctrl = s.ctrl := rfl
@[simp] theorem State.setHex_pend : (s.setHex v).pend = s.pend := rfl
@[simp] theorem State.setHex_scratch : (s.setHex v).scratch = s.scratch := rfl
@[simp] theorem State.setHex_msgBytes : (s.setHex v).msgBytes = s.msgBytes := rfl
@[simp] theorem State.setHex_resets : (s.setHex v).resets = s.resets := rfl
@[simp] theorem State.setHex_draws : (s.setHex v).draws = s.draws := rfl
@[simp] theorem State.setHex_events : (s.setHex v).events = s.events := rfl
@[simp] theorem State.setHex_answers : (s.setHex v).answers = s.answers := rfl
end

section
variable (v : Status)
@[simp] theorem State.setStatus_h : (s.setStatus v).h = s.h := rfl
@[simp] theorem State.setStatus_len : (s.setStatus v).len = s.len := rfl
@[simp] theorem State.setStatus_blkcnt : (s.setStatus v).blkcnt = s.blkcnt := rfl
@[simp] theorem State.setStatus_msg : (s.setStatus v).msg = s.msg := rfl
@[simp] theorem State.setStatus_raw : (s.setStatus v).raw = s.raw := rfl
@[simp] theorem State.setStatus_hex : (s.setStatus v).hex = s.hex := rfl
@[simp] theorem State.setStatus_status : (s.setStatus v).status = v := rfl
@[simp] theorem State.setStatus_ctrl : (s.setStatus v).ctrl = s.ctrl := rfl
@[simp] theorem State.setStatus_pend : (s.setStatus v).pend = s.pend := rfl
@[simp] theorem State.setStatus_scratch : (s.setStatus v).scratch = s.scratch := rfl
@[simp] theorem State.setStatus_msgBytes : (s.setStatus v).msgBytes = s.msgBytes := rfl
@[simp] theorem State.setStatus_resets : (s.setStatus v).resets = s.resets := rfl
@[simp] theorem State.setStatus_draws : (s.setStatus v).draws = s.draws := rfl
@[simp] theorem State.setStatus_events : (s.setStatus v).events = s.events := rfl
@[simp] theorem State.setStatus_answers : (s.setStatus v).answers = s.answers := rfl
end

section
variable (v : Ctrl)
@[simp] theorem State.setCtrl_h : (s.setCtrl v).h = s.h := rfl
@[simp] theorem State.setCtrl_len : (s.setCtrl v).len = s.len := rfl
@[simp] theorem State.setCtrl_blkcnt : (s.setCtrl v).blkcnt = s.blkcnt := rfl
@[simp] theorem State.setCtrl_msg : (s.setCtrl v).msg = s.msg := rfl
@[simp] theorem State.setCtrl_raw : (s.setCtrl v).raw = s.raw := rfl
@[simp] theorem State.setCtrl_hex : (s.setCtrl v).hex = s.hex := rfl
@[simp] theorem State.setCtrl_status : (s.setCtrl v).status = s.status := rfl
@[simp] theorem State.setCtrl_ctrl : (s.setCtrl v).ctrl = v := rfl
@[simp] theorem State.setCtrl_pend : (s.setCtrl v).pend = s.pend := rfl
@[simp] theorem State.setCtrl_scratch : (s.setCtrl v).scratch = s.scratch := rfl
@[simp] theorem State.setCtrl_msgBytes : (s.setCtrl v).msgBytes = s.msgBytes := rfl
@[simp] theorem State.setCtrl_resets : (s.setCtrl v).resets = s.resets := rfl
@[simp] theorem State.setCtrl_draws : (s.setCtrl v).draws = s.draws := rfl
@[simp] theorem State.setCtrl_events : (s.setCtrl v).events = s.events := rfl
@[simp] theorem State.setCtrl_answers : (s.setCtrl v).answers = s.answers := rfl
end

section
variable (v : Word)
@[simp] theorem State.setPend_h : (s.setPend v).h = s.h := rfl
@[simp] theorem State.setPend_len : (s.setPend v).len = s.len := rfl
@[simp] theorem State.setPend_blkcnt : (s.setPend v).blkcnt = s.blkcnt := rfl
@[simp] theorem State.setPend_msg : (s.setPend v).msg = s.msg := rfl
@[simp] theorem State.setPend_raw : (s.setPend v).raw = s.raw := rfl
@[simp] theorem State.setPend_hex : (s.setPend v).hex = s.hex := rfl
@[simp] theorem State.setPend_status : (s.setPend v).status = s.status := rfl
@[simp] theorem State.setPend_ctrl : (s.setPend v).ctrl = s.ctrl := rfl
@[simp] theorem State.setPend_pend : (s.setPend v).pend = v := rfl
@[simp] theorem State.setPend_scratch : (s.setPend v).scratch = s.scratch := rfl
@[simp] theorem State.setPend_msgBytes : (s.setPend v).msgBytes = s.msgBytes := rfl
@[simp] theorem State.setPend_resets : (s.setPend v).resets = s.resets := rfl
@[simp] theorem State.setPend_draws : (s.setPend v).draws = s.draws := rfl
@[simp] theorem State.setPend_events : (s.setPend v).events = s.events := rfl
@[simp] theorem State.setPend_answers : (s.setPend v).answers = s.answers := rfl
end

section
variable (v : List Event)
@[simp] theorem State.setEvents_h : (s.setEvents v).h = s.h := rfl
@[simp] theorem State.setEvents_len : (s.setEvents v).len = s.len := rfl
@[simp] theorem State.setEvents_blkcnt : (s.setEvents v).blkcnt = s.blkcnt := rfl
@[simp] theorem State.setEvents_msg : (s.setEvents v).msg = s.msg := rfl
@[simp] theorem State.setEvents_raw : (s.setEvents v).raw = s.raw := rfl
@[simp] theorem State.setEvents_hex : (s.setEvents v).hex = s.hex := rfl
@[simp] theorem State.setEvents_status : (s.setEvents v).status = s.status := rfl
@[simp] theorem State.setEvents_ctrl : (s.setEvents v).ctrl = s.ctrl := rfl
@[simp] theorem State.setEvents_pend : (s.setEvents v).pend = s.pend := rfl
@[simp] theorem State.setEvents_scratch : (s.setEvents v).scratch = s.scratch := rfl
@[simp] theorem State.setEvents_msgBytes : (s.setEvents v).msgBytes = s.msgBytes := rfl
@[simp] theorem State.setEvents_resets : (s.setEvents v).resets = s.resets := rfl
@[simp] theorem State.setEvents_draws : (s.setEvents v).draws = s.draws := rfl
@[simp] theorem State.setEvents_events : (s.setEvents v).events = v := rfl
@[simp] theorem State.setEvents_answers : (s.setEvents v).answers = s.answers := rfl
end

section
variable (v : Answer)
@[simp] theorem State.pushAnswer_h : (s.pushAnswer v).h = s.h := rfl
@[simp] theorem State.pushAnswer_len : (s.pushAnswer v).len = s.len := rfl
@[simp] theorem State.pushAnswer_blkcnt : (s.pushAnswer v).blkcnt = s.blkcnt := rfl
@[simp] theorem State.pushAnswer_msg : (s.pushAnswer v).msg = s.msg := rfl
@[simp] theorem State.pushAnswer_raw : (s.pushAnswer v).raw = s.raw := rfl
@[simp] theorem State.pushAnswer_hex : (s.pushAnswer v).hex = s.hex := rfl
@[simp] theorem State.pushAnswer_status : (s.pushAnswer v).status = s.status := rfl
@[simp] theorem State.pushAnswer_ctrl : (s.pushAnswer v).ctrl = s.ctrl := rfl
@[simp] theorem State.pushAnswer_pend : (s.pushAnswer v).pend = s.pend := rfl
@[simp] theorem State.pushAnswer_scratch : (s.pushAnswer v).scratch = s.scratch := rfl
@[simp] theorem State.pushAnswer_msgBytes : (s.pushAnswer v).msgBytes = s.msgBytes := rfl
@[simp] theorem State.pushAnswer_resets : (s.pushAnswer v).resets = s.resets := rfl
@[simp] theorem State.pushAnswer_draws : (s.pushAnswer v).draws = s.draws := rfl
@[simp] theorem State.pushAnswer_events : (s.pushAnswer v).events = s.events := rfl
@[simp] theorem State.pushAnswer_answers : (s.pushAnswer v).answers = v :: s.answers := rfl
end

@[simp] theorem State.countDraw_h : s.countDraw.h = s.h := rfl
@[simp] theorem State.countDraw_len : s.countDraw.len = s.len := rfl
@[simp] theorem State.countDraw_blkcnt : s.countDraw.blkcnt = s.blkcnt := rfl
@[simp] theorem State.countDraw_msg : s.countDraw.msg = s.msg := rfl
@[simp] theorem State.countDraw_raw : s.countDraw.raw = s.raw := rfl
@[simp] theorem State.countDraw_hex : s.countDraw.hex = s.hex := rfl
@[simp] theorem State.countDraw_status : s.countDraw.status = s.status := rfl
@[simp] theorem State.countDraw_ctrl : s.countDraw.ctrl = s.ctrl := rfl
@[simp] theorem State.countDraw_pend : s.countDraw.pend = s.pend := rfl
@[simp] theorem State.countDraw_scratch : s.countDraw.scratch = s.scratch := rfl
@[simp] theorem State.countDraw_msgBytes : s.countDraw.msgBytes = s.msgBytes := rfl
@[simp] theorem State.countDraw_resets : s.countDraw.resets = s.resets := rfl
@[simp] theorem State.countDraw_draws : s.countDraw.draws = s.draws + 1 := rfl
@[simp] theorem State.countDraw_events : s.countDraw.events = s.events := rfl
@[simp] theorem State.countDraw_answers : s.countDraw.answers = s.answers := rfl

@[simp] theorem State.loseHidden_h : s.loseHidden.h = s.h := rfl
@[simp] theorem State.loseHidden_len : s.loseHidden.len = s.len := rfl
@[simp] theorem State.loseHidden_blkcnt : s.loseHidden.blkcnt = s.blkcnt := rfl
@[simp] theorem State.loseHidden_msg : s.loseHidden.msg = s.msg := rfl
@[simp] theorem State.loseHidden_raw : s.loseHidden.raw = s.raw := rfl
@[simp] theorem State.loseHidden_hex : s.loseHidden.hex = s.hex := rfl
@[simp] theorem State.loseHidden_status : s.loseHidden.status = s.status := rfl
@[simp] theorem State.loseHidden_ctrl : s.loseHidden.ctrl = s.ctrl := rfl
@[simp] theorem State.loseHidden_pend : s.loseHidden.pend = Config.pendDraw s.draws := rfl
@[simp] theorem State.loseHidden_scratch : s.loseHidden.scratch =
    ⟨Config.workDraw s.draws, Config.scheduleDraw s.draws, Config.roundDraw s.draws, Config.blockDraw s.draws⟩ := rfl
@[simp] theorem State.loseHidden_msgBytes : s.loseHidden.msgBytes = s.msgBytes := rfl
@[simp] theorem State.loseHidden_resets : s.loseHidden.resets = s.resets := rfl
@[simp] theorem State.loseHidden_draws : s.loseHidden.draws = s.draws + 1 := rfl
@[simp] theorem State.loseHidden_events : s.loseHidden.events = s.events := rfl
@[simp] theorem State.loseHidden_answers : s.loseHidden.answers = s.answers := rfl

section
variable (w : Word)
@[simp] theorem accept_h : (accept w s).h = s.h := rfl
@[simp] theorem accept_len : (accept w s).len = s.len := rfl
@[simp] theorem accept_blkcnt : (accept w s).blkcnt = s.blkcnt := rfl
@[simp] theorem accept_msg : (accept w s).msg = s.msg := rfl
@[simp] theorem accept_raw : (accept w s).raw = s.raw := rfl
@[simp] theorem accept_hex : (accept w s).hex = s.hex := rfl
@[simp] theorem accept_status : (accept w s).status = statusAccepted s.status := rfl
@[simp] theorem accept_ctrl : (accept w s).ctrl = s.ctrl := rfl
@[simp] theorem accept_pend : (accept w s).pend = w := rfl
@[simp] theorem accept_scratch : (accept w s).scratch = s.scratch := rfl
@[simp] theorem accept_msgBytes : (accept w s).msgBytes = s.msgBytes := rfl
@[simp] theorem accept_resets : (accept w s).resets = s.resets := rfl
@[simp] theorem accept_draws : (accept w s).draws = s.draws := rfl
@[simp] theorem accept_events : (accept w s).events = s.events := rfl
@[simp] theorem accept_answers : (accept w s).answers = s.answers := rfl
end

section
variable (c : ErrCode)
@[simp] theorem complete_h : (complete c s).h = s.h := rfl
@[simp] theorem complete_len : (complete c s).len = s.len := rfl
@[simp] theorem complete_blkcnt : (complete c s).blkcnt = s.blkcnt := rfl
@[simp] theorem complete_msg : (complete c s).msg = s.msg := rfl
@[simp] theorem complete_raw : (complete c s).raw = s.raw := rfl
@[simp] theorem complete_hex : (complete c s).hex = s.hex := rfl
@[simp] theorem complete_status : (complete c s).status = statusCompleted c s.status := rfl
@[simp] theorem complete_ctrl : (complete c s).ctrl = s.ctrl := rfl
@[simp] theorem complete_pend : (complete c s).pend = Config.pendDraw s.draws := rfl
@[simp] theorem complete_scratch : (complete c s).scratch = s.loseHidden.scratch := rfl
@[simp] theorem complete_msgBytes : (complete c s).msgBytes = s.msgBytes := rfl
@[simp] theorem complete_resets : (complete c s).resets = s.resets := rfl
@[simp] theorem complete_draws : (complete c s).draws = s.draws + 1 := rfl
@[simp] theorem complete_events : (complete c s).events = s.events := rfl
@[simp] theorem complete_answers : (complete c s).answers = s.answers := rfl
end

@[simp] theorem assertReset_h : (assertReset s).h = initVector := rfl
@[simp] theorem assertReset_len : (assertReset s).len = 0 := rfl
@[simp] theorem assertReset_blkcnt : (assertReset s).blkcnt = 0 := rfl
@[simp] theorem assertReset_msg : (assertReset s).msg = [] := rfl
@[simp] theorem assertReset_raw : (assertReset s).raw = Vector.replicate 64 0x00 := rfl
@[simp] theorem assertReset_hex : (assertReset s).hex = Vector.replicate 129 0x00 := rfl
@[simp] theorem assertReset_status : (assertReset s).status = statusAtReset := rfl
@[simp] theorem assertReset_ctrl : (assertReset s).ctrl = ⟨false⟩ := rfl
@[simp] theorem assertReset_pend : (assertReset s).pend = 0 := rfl
@[simp] theorem assertReset_scratch : (assertReset s).scratch = scratchAtReset := rfl
@[simp] theorem assertReset_msgBytes : (assertReset s).msgBytes = s.msgBytes := rfl
@[simp] theorem assertReset_resets : (assertReset s).resets = s.resets + 1 := rfl
@[simp] theorem assertReset_draws : (assertReset s).draws = s.draws := rfl
@[simp] theorem assertReset_events : (assertReset s).events = s.events := rfl
@[simp] theorem assertReset_answers : (assertReset s).answers = s.answers := rfl

section
variable (n : Nat)
@[simp] theorem State.resetWith_h : (State.resetWith n).h = initVector := rfl
@[simp] theorem State.resetWith_len : (State.resetWith n).len = 0 := rfl
@[simp] theorem State.resetWith_blkcnt : (State.resetWith n).blkcnt = 0 := rfl
@[simp] theorem State.resetWith_msg : (State.resetWith n).msg = [] := rfl
@[simp] theorem State.resetWith_raw : (State.resetWith n).raw = Vector.replicate 64 0x00 := rfl
@[simp] theorem State.resetWith_hex : (State.resetWith n).hex = Vector.replicate 129 0x00 := rfl
@[simp] theorem State.resetWith_status : (State.resetWith n).status = statusAtReset := rfl
@[simp] theorem State.resetWith_ctrl : (State.resetWith n).ctrl = ⟨false⟩ := rfl
@[simp] theorem State.resetWith_pend : (State.resetWith n).pend = 0 := rfl
@[simp] theorem State.resetWith_scratch : (State.resetWith n).scratch = scratchAtReset := rfl
@[simp] theorem State.resetWith_msgBytes : (State.resetWith n).msgBytes = n := rfl
@[simp] theorem State.resetWith_resets : (State.resetWith n).resets = 0 := rfl
@[simp] theorem State.resetWith_draws : (State.resetWith n).draws = 0 := rfl
@[simp] theorem State.resetWith_events : (State.resetWith n).events = [] := rfl
@[simp] theorem State.resetWith_answers : (State.resetWith n).answers = [] := rfl
end

section
variable (f : Status) (c : ErrCode) (v : Word)
@[simp] theorem statusAccepted_busy : (statusAccepted f).busy = true := rfl
@[simp] theorem statusAccepted_done : (statusAccepted f).done = false := rfl
@[simp] theorem statusAccepted_err : (statusAccepted f).err = false := rfl
@[simp] theorem statusAccepted_ovr : (statusAccepted f).ovr = f.ovr := rfl
@[simp] theorem statusAccepted_errcode : (statusAccepted f).errcode = .none := rfl
@[simp] theorem statusCompleted_busy : (statusCompleted c f).busy = false := rfl
@[simp] theorem statusCompleted_done : (statusCompleted c f).done = true := rfl
@[simp] theorem statusCompleted_err : (statusCompleted c f).err = (c != .none) := rfl
@[simp] theorem statusCompleted_ovr : (statusCompleted c f).ovr = f.ovr := rfl
@[simp] theorem statusCompleted_errcode : (statusCompleted c f).errcode = c := rfl
@[simp] theorem statusOverrun_busy : (statusOverrun f).busy = f.busy := rfl
@[simp] theorem statusOverrun_done : (statusOverrun f).done = f.done := rfl
@[simp] theorem statusOverrun_err : (statusOverrun f).err = f.err := rfl
@[simp] theorem statusOverrun_ovr : (statusOverrun f).ovr = true := rfl
@[simp] theorem statusOverrun_errcode : (statusOverrun f).errcode = f.errcode := rfl
@[simp] theorem statusAfterWrite_busy : (statusAfterWrite v f).busy = f.busy := rfl
@[simp] theorem statusAfterWrite_done : (statusAfterWrite v f).done = (f.done && !v.getLsbD 1) := rfl
@[simp] theorem statusAfterWrite_err : (statusAfterWrite v f).err = f.err := rfl
@[simp] theorem statusAfterWrite_ovr : (statusAfterWrite v f).ovr = (f.ovr && !v.getLsbD 3) := rfl
@[simp] theorem statusAfterWrite_errcode : (statusAfterWrite v f).errcode = f.errcode := rfl
@[simp] theorem ctrlAfterWrite_ie : (ctrlAfterWrite v).ie = v.getLsbD 0 := rfl
end

@[simp] theorem placeCommand_events (w : Word) : (placeCommand w s).events = .engine :: s.events := rfl
@[simp] theorem placeCommand_pend (w : Word) : (placeCommand w s).pend = w := rfl
@[simp] theorem placeCommand_busy (w : Word) : (placeCommand w s).status.busy = true := rfl

end Sys2Proof.Machine
end

