-- ==== Sys2Proof/Laws/Algorithm.lean ====
section
/-! SUPPORT. The laws of the pure functions: byte order, padding, schedule, serialisation and codec, each read at one
place. -/

namespace Sys2Proof.Machine

/-! ### Byte order -/

@[simp] theorem bigEndian_length (n v : Nat) : (bigEndian n v).length = n := by simp [bigEndian]

theorem fromBigEndian_append_one (bytes : List Byte) (b : Byte) :
    fromBigEndian (bytes ++ [b]) = 256 * fromBigEndian bytes + b.toNat := by simp [fromBigEndian]

/-- `fromBE` undoes `BE_n` on every number that fits (R15). -/
theorem fromBigEndian_bigEndian (n v : Nat) (h : v < 256 ^ n) : fromBigEndian (bigEndian n v) = v := by
  have prefixes : ∀ k ≤ n,
      fromBigEndian ((List.range k).map fun j => BitVec.ofNat 8 (v / 256 ^ (n - 1 - j))) = v / 256 ^ (n - k) := by
    intro k
    induction k with
    | zero => intro _; simp [fromBigEndian, Nat.div_eq_of_lt h]
    | succ k ih =>
      intro hk
      rw [List.range_succ, List.map_append, List.map_cons, List.map_nil, fromBigEndian_append_one, ih (by omega)]
      have hsub : n - (k + 1) = n - 1 - k := by omega
      have hpow : n - k = (n - 1 - k) + 1 := by omega
      rw [hsub, hpow, pow_succ, ← Nat.div_div_eq_div_mul]
      simp
      omega
  have h := prefixes n le_rfl
  simp only [Nat.sub_self, pow_zero, Nat.div_one] at h
  exact h

theorem fromBigEndian_eight (b : Nat → Byte) : fromBigEndian ((List.range 8).map b) =
    ((((((((b 0).toNat * 256 + (b 1).toNat) * 256 + (b 2).toNat) * 256 + (b 3).toNat) * 256 + (b 4).toNat) * 256
      + (b 5).toNat) * 256 + (b 6).toNat) * 256 + (b 7).toNat) := by
  simp [fromBigEndian, List.range_succ]
  omega

/-- Byte j of a packed word is the j-th byte packed (R56). -/
theorem extract_wordOfBytes (b : Nat → Byte) (j : Nat) (hj : j < 8) :
    (wordOfBytes b).extractLsb' (56 - 8 * j) 8 = b j := by
  apply BitVec.eq_of_toNat_eq
  rw [wordOfBytes, BitVec.extractLsb'_toNat, BitVec.toNat_ofNat, fromBigEndian_eight, Nat.shiftRight_eq_div_pow]
  have h0 := (b 0).isLt
  have h1 := (b 1).isLt
  have h2 := (b 2).isLt
  have h3 := (b 3).isLt
  have h4 := (b 4).isLt
  have h5 := (b 5).isLt
  have h6 := (b 6).isLt
  have h7 := (b 7).isLt
  have hcases : j = 0 ∨ j = 1 ∨ j = 2 ∨ j = 3 ∨ j = 4 ∨ j = 5 ∨ j = 6 ∨ j = 7 := by omega
  rcases hcases with h | h | h | h | h | h | h | h <;> subst h <;> norm_num <;> omega

/-- Two words with the same 8 bytes are equal. -/
theorem word_eq_of_bytes (v w : Word)
    (h : ∀ j < 8, v.extractLsb' (56 - 8 * j) 8 = w.extractLsb' (56 - 8 * j) 8) : v = w := by
  apply BitVec.eq_of_getLsbD_eq
  intro i hi
  have hb := congrArg (fun x => x.getLsbD (i % 8)) (h (7 - i / 8) (by omega))
  simp only [BitVec.getLsbD_extractLsb'] at hb
  have hidx : 56 - 8 * (7 - i / 8) + i % 8 = i := by omega
  rw [hidx] at hb
  have hlt : i % 8 < 8 := by omega
  simpa [hlt] using hb

/-- Packing the bytes of a word gives the word back (R56). -/
theorem wordOfBytes_eq (v : Word) (b : Nat → Byte) (h : ∀ j < 8, b j = byteOfWord v j) : wordOfBytes b = v := by
  apply word_eq_of_bytes
  intro j hj
  rw [extract_wordOfBytes b j hj, h j hj, byteOfWord]

/-! ### Schedule -/

theorem roundConstants_length : roundConstants.length = 80 := rfl

@[simp] theorem blockWords_length (b : List Byte) : (blockWords b).length = 16 := by simp [blockWords]

theorem extendSchedule_length (n : Nat) (l : List Word) : (extendSchedule n l).length = n + l.length := by
  induction n generalizing l with
  | zero => simp [extendSchedule]
  | succ n ih => simp [extendSchedule, ih]; omega

/-- The words a schedule was extended from stay at its end. -/
theorem extendSchedule_drop (n : Nat) (l : List Word) : (extendSchedule n l).drop n = l := by
  induction n generalizing l with
  | zero => simp [extendSchedule]
  | succ n ih =>
    have h := ih (nextScheduleWord l :: l)
    simp only [extendSchedule]
    rw [← List.drop_drop, h]
    rfl

theorem extendSchedule_add (n m : Nat) (l : List Word) :
    extendSchedule (n + m) l = extendSchedule n (extendSchedule m l) := by
  induction m generalizing l with
  | zero => rfl
  | succ m ih => rw [← Nat.add_assoc]; exact ih (nextScheduleWord l :: l)

/-- The newest word of an extension is the next word of the extension before it (R151). -/
theorem extendSchedule_succ (n : Nat) (l : List Word) :
    extendSchedule (n + 1) l = nextScheduleWord (extendSchedule n l) :: extendSchedule n l := by
  rw [Nat.add_comm, extendSchedule_add]
  rfl

theorem runRounds_append (p q : List (Word × Word)) (r : Work) :
    runRounds (p ++ q) r = runRounds q (runRounds p r) := by simp [runRounds]

/-! ### Serialisation and codec -/

/-- Byte 8k + j of Ser(H) (R180). -/
theorem serialise_get (h : Chain) (k j : Nat) (hk : k < 8) (hj : j < 8) :
    (serialise h)[8 * k + j] = byteOfWord h[k] j := by
  have hdiv : (8 * k + j) / 8 = k := by omega
  have hmod : (8 * k + j) % 8 = j := by omega
  unfold serialise
  simp [hdiv, hmod]

/-- The two digits of byte i, and the NUL, in Hex(r) (R201). -/
theorem hexEncode_high (r : Vector Byte 64) (i : Nat) (hi : i < 64) :
    (hexEncode r)[2 * i] = hexDigit (r[i].toNat / 16) := by
  have hdiv : 2 * i / 2 = i := by omega
  have hmod : 2 * i % 2 = 0 := by omega
  have hlt : 2 * i < 128 := by omega
  unfold hexEncode
  simp [hdiv, hmod, hlt]
  congr 1
  rw [Nat.shiftRight_eq_div_pow]
  have := r[i].isLt
  omega

theorem hexEncode_low (r : Vector Byte 64) (i : Nat) (hi : i < 64) :
    (hexEncode r)[2 * i + 1] = hexDigit (r[i].toNat % 16) := by
  have hdiv : (2 * i + 1) / 2 = i := by omega
  have hlt : 2 * i + 1 < 128 := by omega
  unfold hexEncode
  simp [hdiv, hlt]

theorem hexEncode_end (r : Vector Byte 64) : (hexEncode r)[128] = 0x00 := by
  unfold hexEncode
  simp

/-- Byte i of Unhex(T) (R211). -/
theorem hexDecode_get (t : Vector Byte 129) (i : Nat) (hi : i < 64) :
    (hexDecode t)[i] =
      BitVec.ofNat 8 ((hexValue t[2 * i]).getD 0 * 16 + (hexValue t[2 * i + 1]).getD 0) := by
  unfold hexDecode
  simp

/-- The value of the digit of a nibble is the nibble (R200, R208). -/
theorem hexValue_hexDigit (n : Nat) (h : n < 16) : hexValue (hexDigit n) = some n := by
  have all : ∀ k : Fin 16, hexValue (hexDigit k.val) = some k.val := by decide
  exact all ⟨n, h⟩

end Sys2Proof.Machine
end

