-- ==== Sys2Proof/Laws/Memory.lean ====
section
/-! SUPPORT. The laws of the message buffer: reading after writing, and the canonical form kept by every operation. -/

namespace Sys2Proof.Machine

/-- Reading back the byte just stored. -/
@[simp] theorem Memory.get?_put_same (m : Memory) (a : Nat) (b : Byte) : (m.put a b).get? a = some b := by
  induction m with
  | nil => simp [Memory.put, Memory.get?]
  | cons c rest ih =>
    simp only [Memory.put]
    split
    · simp [Memory.get?]
    · split
      · simp [Memory.get?]
      · have hne : c.1 ≠ a := fun h => by simp_all
        simp [Memory.get?, hne, ih]

/-- A store leaves every other byte alone. -/
theorem Memory.get?_put_other (m : Memory) (a x : Nat) (b : Byte) (h : x ≠ a) :
    (m.put a b).get? x = m.get? x := by
  induction m with
  | nil => simp [Memory.put, Memory.get?, Ne.symm h]
  | cons c rest ih =>
    simp only [Memory.put]
    split
    · simp [Memory.get?, Ne.symm h]
    · split
      · rename_i _ he
        have hcx : c.1 ≠ x := fun hc => h (by omega)
        simp [Memory.get?, Ne.symm h, hcx]
      · simp [Memory.get?, ih]

theorem Memory.get?_put (m : Memory) (a x : Nat) (b : Byte) :
    (m.put a b).get? x = if x = a then some b else m.get? x := by
  split
  · subst x; exact Memory.get?_put_same m a b
  · rename_i h; exact Memory.get?_put_other m a x b h

/-- The addresses listed after a store are those listed before and the stored one. -/
theorem Memory.mem_put {m : Memory} {a : Nat} {b : Byte} {c : Host.Cell} (h : c ∈ m.put a b) :
    c = (a, b) ∨ c ∈ m := by
  induction m with
  | nil => simpa [Memory.put] using h
  | cons d rest ih =>
    simp only [Memory.put] at h
    split at h
    · simpa using h
    · split at h
      · rcases List.mem_cons.1 h with h | h
        · exact .inl h
        · exact .inr (List.mem_cons_of_mem d h)
      · rcases List.mem_cons.1 h with h | h
        · exact .inr (h ▸ List.mem_cons_self ..)
        · exact (ih h).imp_right (List.mem_cons_of_mem d)

theorem Memory.wf_cons (c : Host.Cell) (rest : Memory) :
    Memory.wf (c :: rest) = true ↔ (∀ d, rest.head? = some d → c.1 < d.1) ∧ Memory.wf rest = true := by
  cases rest with
  | nil => simp [Memory.wf]
  | cons d r => simp [Memory.wf]

/-- The first address after a store is the stored one or the first one before. -/
theorem Memory.head_put (m : Memory) (a : Nat) (b : Byte) (d : Host.Cell) (h : (m.put a b).head? = some d) :
    d.1 = a ∨ m.head? = some d := by
  cases m with
  | nil => simp [Memory.put] at h; simp [← h]
  | cons c rest =>
    simp only [Memory.put] at h
    split at h
    · simp at h; simp [← h]
    · split at h
      · simp at h; simp [← h]
      · simp at h; simp [h]

/-- A store keeps the canonical form. -/
theorem Memory.wf_put (m : Memory) (a : Nat) (b : Byte) (h : m.wf = true) : (m.put a b).wf = true := by
  induction m with
  | nil => rfl
  | cons c rest ih =>
    obtain ⟨hlt, hwf⟩ := (Memory.wf_cons c rest).1 h
    simp only [Memory.put]
    split
    · rename_i hac
      exact (Memory.wf_cons _ _).2 ⟨fun d hd => by simp at hd; subst hd; exact hac, h⟩
    · split
      · rename_i _ hac
        subst hac
        exact (Memory.wf_cons _ _).2 ⟨hlt, hwf⟩
      · refine (Memory.wf_cons _ _).2 ⟨fun d hd => ?_, ih hwf⟩
        rcases Memory.head_put rest a b d hd with h1 | h1
        · omega
        · exact hlt d h1

/-- The empty memory, as reset leaves it, is in canonical form. -/
@[simp] theorem Memory.wf_nil : Memory.wf [] = true := rfl

/-- What a run of stores of consecutive bytes leaves to read. -/
theorem Memory.get?_foldl_put (f : Nat → Byte) (off n : Nat) (m : Memory) (x : Nat) :
    ((List.range n).foldl (fun m j => Memory.put m (off + j) (f j)) m).get? x =
      if off ≤ x ∧ x < off + n then some (f (x - off)) else m.get? x := by
  induction n with
  | zero =>
    have hno : ¬(off ≤ x ∧ x < off + 0) := by omega
    rw [if_neg hno]
    rfl
  | succ n ih =>
    rw [List.range_succ, List.foldl_append, List.foldl_cons, List.foldl_nil, Memory.get?_put, ih]
    by_cases hx : x = off + n
    · have hy : off ≤ x ∧ x < off + (n + 1) := by omega
      rw [if_pos hx, if_pos hy, hx, Nat.add_sub_cancel_left]
    · by_cases hy : off ≤ x ∧ x < off + n
      · have hz : off ≤ x ∧ x < off + (n + 1) := by omega
        rw [if_neg hx, if_pos hy, if_pos hz]
      · have hz : ¬(off ≤ x ∧ x < off + (n + 1)) := by omega
        rw [if_neg hx, if_neg hy, if_neg hz]

/-- All a store of a port word does: the 8 bytes from `off` on, and no other. -/
theorem get?_memWriteWord (m : Memory) (off : Nat) (v : Word) (x : Nat) :
    (memWriteWord m off v).get? x =
      if off ≤ x ∧ x < off + 8 then some (byteOfWord v (x - off)) else m.get? x :=
  Memory.get?_foldl_put (byteOfWord v) off 8 m x

theorem Memory.wf_foldl_put (f : Nat → Byte) (off : Nat) (js : List Nat) (m : Memory) (h : m.wf = true) :
    Memory.wf (js.foldl (fun m j => Memory.put m (off + j) (f j)) m) = true := by
  induction js generalizing m with
  | nil => exact h
  | cons j js ih => exact ih _ (Memory.wf_put m _ _ h)

/-- A store of a port word keeps the canonical form. -/
theorem wf_memWriteWord (m : Memory) (off : Nat) (v : Word) (h : m.wf = true) : (memWriteWord m off v).wf = true :=
  Memory.wf_foldl_put (byteOfWord v) off (List.range 8) m h

theorem Memory.mem_foldl_put (f : Nat → Byte) (off : Nat) (js : List Nat) (m : Memory) (c : Host.Cell)
    (h : c ∈ js.foldl (fun m j => Memory.put m (off + j) (f j)) m) : (∃ j ∈ js, c.1 = off + j) ∨ c ∈ m := by
  induction js generalizing m with
  | nil => exact .inr h
  | cons j js ih =>
    rcases ih _ h with ⟨k, hk, hc⟩ | hc
    · exact .inl ⟨k, List.mem_cons_of_mem j hk, hc⟩
    · rcases Memory.mem_put hc with hc | hc
      · exact .inl ⟨j, List.mem_cons_self .., by rw [hc]⟩
      · exact .inr hc

/-- The addresses a store of a port word can add. -/
theorem mem_memWriteWord {m : Memory} {off : Nat} {v : Word} {c : Host.Cell} (h : c ∈ memWriteWord m off v) :
    (off ≤ c.1 ∧ c.1 < off + 8) ∨ c ∈ m := by
  rcases Memory.mem_foldl_put (byteOfWord v) off (List.range 8) m c h with ⟨j, hj, hc⟩ | hc
  · have := List.mem_range.1 hj
    exact .inl (by omega)
  · exact .inr hc

/-- MSG[i] depends on the written bytes and the number of resets only. -/
theorem messageByte_congr {s t : State} (hm : t.msg = s.msg) (hr : t.resets = s.resets) (i : Nat) :
    messageByte t i = messageByte s i := by
  simp [messageByte, hm, hr]

/-- MSG[i] after a port write to the word at `off`. -/
theorem messageByte_setMsg_word (s : State) (off : Nat) (v : Word) (i : Nat) :
    messageByte (s.setMsg (memWriteWord s.msg off v)) i =
      if off ≤ i ∧ i < off + 8 then byteOfWord v (i - off) else messageByte s i := by
  simp only [messageByte, State.setMsg_msg, State.setMsg_resets, get?_memWriteWord]
  split <;> simp

@[simp] theorem memRead_length (s : State) (off n : Nat) : (memRead s off n).length = n := by simp [memRead]

/-- MemRead depends on the bytes it reads only. -/
theorem memRead_congr {s t : State} {off off' n : Nat}
    (h : ∀ i < n, messageByte t (off' + i) = messageByte s (off + i)) : memRead t off' n = memRead s off n :=
  List.map_congr_left fun i hi => h i (List.mem_range.1 hi)

end Sys2Proof.Machine
end

