-- ==== Sys2Proof/Laws/Commands.lean ====
section
/-! SUPPORT. What a command can do, said once: the inversion lemmas of the meanings and of `exec`. -/

namespace Sys2Proof.Machine

theorem raiseError_eq (c : ErrCode) (s : State) : raiseError c s = .next (complete c s) := rfl

theorem finish_eq (s : State) : finish s = .next (complete .none s) := rfl

/-- `u` differs from `s` in H, BLKCNT, RAW and HEX at most. -/
def DiffersInResults (s u : State) : Prop :=
  u = (((s.setH u.h).setBlkcnt u.blkcnt).setRaw u.raw).setHex u.hex

theorem differs_setH (s : State) (v : Chain) : DiffersInResults s (s.setH v) := rfl

theorem differs_setRaw (s : State) (v : Vector Byte 64) : DiffersInResults s (s.setRaw v) := rfl

theorem differs_setHex (s : State) (v : Vector Byte 129) : DiffersInResults s (s.setHex v) := rfl

theorem differs_setH_setBlkcnt (s : State) (v : Chain) (n : Word) :
    DiffersInResults s ((s.setH v).setBlkcnt n) := rfl

theorem differs_setH_setRaw_setBlkcnt (s : State) (v : Chain) (r : Vector Byte 64) (n : Word) :
    DiffersInResults s (((s.setH v).setRaw r).setBlkcnt n) := rfl

theorem execInit_eq (s : State) : execInit s = .next (complete .none (s.setH initVector)) := rfl

theorem execExtract_eq (s : State) : execExtract s = .next (complete .none (s.setRaw (serialise s.h))) := rfl

theorem execDump_eq (s : State) : execDump s = .next (complete .none (s.setHex (hexEncode s.raw))) := rfl

/-- All COMPRESS can do. -/
theorem execCompress_cases (s : State) :
    (s.msgBytes < s.len.toNat ∧ execCompress s = .next (complete .lenRange s)) ∨
    (s.len.toNat ≤ s.msgBytes ∧ s.len.toNat % 128 ≠ 0 ∧ execCompress s = .next (complete .lenAlign s)) ∨
    (s.len.toNat ≤ s.msgBytes ∧ s.len.toNat % 128 = 0 ∧
      execCompress s = .next (complete .none
        ((s.setH (compressBlocks s.h (messageBlocks s (s.len.toNat / 128)))).setBlkcnt
          (BitVec.ofNat 64 (s.len.toNat / 128))))) := by
  by_cases hf : s.len.toNat ≤ s.msgBytes
  · by_cases ha : s.len.toNat % 128 = 0
    · exact .inr (.inr ⟨hf, ha, by simp [execCompress, lenFits, lenWhole, hf, ha, finish_eq]⟩)
    · exact .inr (.inl ⟨hf, ha, by simp [execCompress, lenFits, lenWhole, hf, ha, raiseError_eq]⟩)
  · exact .inl ⟨by omega, by simp [execCompress, lenFits, hf, raiseError_eq]⟩

/-- All DIGEST can do. -/
theorem execDigest_cases (s : State) :
    (s.msgBytes < s.len.toNat ∧ execDigest s = .next (complete .lenRange s)) ∨
    (s.len.toNat ≤ s.msgBytes ∧
      execDigest s = .next (complete .none
        (((s.setH (compressBlocks initVector (blocksOf (pad (messageOf s))))).setRaw
          (digestOf (messageOf s))).setBlkcnt (BitVec.ofNat 64 (blockCount s.len.toNat))))) := by
  by_cases hf : s.len.toNat ≤ s.msgBytes
  · exact .inr ⟨hf, by simp [execDigest, lenFits, hf, finish_eq, digestOf]⟩
  · exact .inl ⟨by omega, by simp [execDigest, lenFits, hf, raiseError_eq]⟩

/-- All READ can do. -/
theorem execRead_cases (s : State) :
    (HexWellFormed s.hex ∧ execRead s = .next (complete .none (s.setRaw (hexDecode s.hex)))) ∨
    (¬HexWellFormed s.hex ∧ execRead s = .next (complete .hexMalformed s)) := by
  by_cases hw : HexWellFormed s.hex
  · exact .inl ⟨hw, by rw [execRead, if_pos hw, finish_eq]⟩
  · exact .inr ⟨hw, by rw [execRead, if_neg hw, raiseError_eq]⟩

/-- All any command can do: it completes, with an error from the state as it was, or without one from a state that
differs from it in H, BLKCNT, RAW and HEX at most. -/
theorem exec_completes (i : Instr) (s : State) :
    (∃ c, c ≠ .none ∧ exec i s = .next (complete c s)) ∨
    (∃ u, DiffersInResults s u ∧ exec i s = .next (complete .none u)) := by
  cases i with
  | init => exact .inr ⟨_, differs_setH s _, execInit_eq s⟩
  | extract => exact .inr ⟨_, differs_setRaw s _, execExtract_eq s⟩
  | dump => exact .inr ⟨_, differs_setHex s _, execDump_eq s⟩
  | compress =>
    rcases execCompress_cases s with ⟨_, h⟩ | ⟨_, _, h⟩ | ⟨_, _, h⟩
    · exact .inl ⟨_, by decide, h⟩
    · exact .inl ⟨_, by decide, h⟩
    · exact .inr ⟨_, differs_setH_setBlkcnt s _ _, h⟩
  | digest =>
    rcases execDigest_cases s with ⟨_, h⟩ | ⟨_, h⟩
    · exact .inl ⟨_, by decide, h⟩
    · exact .inr ⟨_, differs_setH_setRaw_setBlkcnt s _ _ _, h⟩
  | read =>
    rcases execRead_cases s with ⟨_, h⟩ | ⟨_, h⟩
    · exact .inr ⟨_, differs_setRaw s _, h⟩
    · exact .inl ⟨_, by decide, h⟩

/-- All any command can do, in one form: it completes with some code from a state that differs from the one before in
H, BLKCNT, RAW and HEX at most. -/
theorem exec_next (i : Instr) (s : State) :
    ∃ c u, DiffersInResults s u ∧ exec i s = .next (complete c u) := by
  rcases exec_completes i s with ⟨c, _, h⟩ | ⟨u, hu, h⟩
  · exact ⟨c, s, rfl, h⟩
  · exact ⟨.none, u, hu, h⟩

theorem differs_status {s u : State} (h : DiffersInResults s u) : u.status = s.status := by rw [h]; rfl

theorem differs_ctrl {s u : State} (h : DiffersInResults s u) : u.ctrl = s.ctrl := by rw [h]; rfl

theorem differs_len {s u : State} (h : DiffersInResults s u) : u.len = s.len := by rw [h]; rfl

theorem differs_msg {s u : State} (h : DiffersInResults s u) : u.msg = s.msg := by rw [h]; rfl

theorem differs_msgBytes {s u : State} (h : DiffersInResults s u) : u.msgBytes = s.msgBytes := by rw [h]; rfl

theorem differs_events {s u : State} (h : DiffersInResults s u) : u.events = s.events := by rw [h]; rfl

theorem differs_answers {s u : State} (h : DiffersInResults s u) : u.answers = s.answers := by rw [h]; rfl

/-- A completion with code `c` from a state with the same STATUS leaves the STATUS of that completion. -/
theorem completedWith_complete (c : ErrCode) {s u : State} (h : u.status = s.status) :
    CompletedWith c s (complete c u) := by
  constructor <;> simp [h]

/-- A completion from a state that differs in results only keeps what no command writes. -/
theorem commandFrame_complete (c : ErrCode) {s u : State} (h : DiffersInResults s u) :
    CommandFrame s (complete c u) := by
  rw [h]
  constructor <;> first | rfl | exact fun _ => rfl

/-- A completion of the state as it was changes STATUS only. -/
theorem onlyStatusChanged_complete (c : ErrCode) (s : State) : OnlyStatusChanged s (complete c s) where
  frame := commandFrame_complete c (u := s) rfl
  h := rfl
  blkcnt := rfl
  raw := rfl
  hex := rfl

/-- A turn of the engine agent: idle, an illegal word, or a command. -/
theorem engineTurn_cases (s : State) :
    (s.status.busy = false ∧ engineTurn s = .next s) ∨
    (s.status.busy = true ∧ (∃ why, decode s.pend = .illegal why) ∧
      engineTurn s = .next (complete .illegalCmd s)) ∨
    (∃ i, s.status.busy = true ∧ decode s.pend = .command i ∧ engineTurn s = exec i s) := by
  cases hb : s.status.busy with
  | false => exact .inl ⟨rfl, by simp [engineTurn, hb]⟩
  | true =>
    cases hd : decode s.pend with
    | command i => exact .inr (.inr ⟨i, rfl, rfl, by simp [engineTurn, hb, hd]⟩)
    | illegal why => exact .inr (.inl ⟨rfl, ⟨why, rfl⟩, by simp [engineTurn, hb, hd, raiseError_eq]⟩)

/-- A turn of the engine agent, in one form: nothing while idle, and else a completion. -/
theorem engineTurn_next (s : State) :
    (s.status.busy = false ∧ engineTurn s = .next s) ∨
    (s.status.busy = true ∧ ∃ c u, DiffersInResults s u ∧ engineTurn s = .next (complete c u)) := by
  rcases engineTurn_cases s with ⟨hb, h⟩ | ⟨hb, _, h⟩ | ⟨i, hb, _, h⟩
  · exact .inl ⟨hb, h⟩
  · exact .inr ⟨hb, .illegalCmd, s, rfl, h⟩
  · obtain ⟨c, u, hu, h'⟩ := exec_next i s
    exact .inr ⟨hb, c, u, hu, h.trans h'⟩

end Sys2Proof.Machine
end

