-- ==== Sys2Proof/Laws/Port.lean ====
section
/-! SUPPORT. What a port transaction and a step can do, said once. -/

namespace Sys2Proof.Machine

/-- All a port read can do. -/
theorem portRead_cases (addr : Word) (s : State) :
    (addr.toNat % 8 ≠ 0 ∧ portRead addr s = (⟨.slverr, none⟩, s)) ∨
    (addr.toNat % 8 = 0 ∧ targetOf s.msgBytes addr.toNat = none ∧ portRead addr s = (⟨.decerr, none⟩, s)) ∨
    (∃ r, addr.toNat % 8 = 0 ∧ targetOf s.msgBytes addr.toNat = some r ∧ s.status.busy = true ∧ midUpdate r = true ∧
      portRead addr s = (⟨.okay, some (Config.busyRead s.draws)⟩, s.countDraw)) ∨
    (∃ r, addr.toNat % 8 = 0 ∧ targetOf s.msgBytes addr.toNat = some r ∧
      (s.status.busy = false ∨ midUpdate r = false) ∧
      portRead addr s = (⟨.okay, some (readTarget s r)⟩, s)) := by
  by_cases ha : addr.toNat % 8 = 0
  · cases ht : targetOf s.msgBytes addr.toNat with
    | none => exact .inr (.inl ⟨ha, rfl, by simp [portRead, ha, ht]⟩)
    | some r =>
      cases hb : s.status.busy with
      | false => exact .inr (.inr (.inr ⟨r, ha, rfl, .inl rfl, by simp [portRead, ha, ht, hb]⟩))
      | true =>
        cases hm : midUpdate r with
        | false => exact .inr (.inr (.inr ⟨r, ha, rfl, .inr hm, by simp [portRead, ha, ht, hb, hm]⟩))
        | true => exact .inr (.inr (.inl ⟨r, ha, rfl, rfl, hm, by simp [portRead, ha, ht, hb, hm]⟩))
  · exact .inl ⟨ha, by simp [portRead, ha]⟩

/-- All a port write can do. -/
theorem portWrite_cases (addr v : Word) (s : State) :
    (addr.toNat % 8 ≠ 0 ∧ portWrite addr v s = (⟨.slverr, none⟩, s)) ∨
    (addr.toNat % 8 = 0 ∧ targetOf s.msgBytes addr.toNat = none ∧ portWrite addr v s = (⟨.decerr, none⟩, s)) ∨
    (∃ r, addr.toNat % 8 = 0 ∧ targetOf s.msgBytes addr.toNat = some r ∧ s.status.busy = true ∧
      portWrite addr v s = (⟨.okay, none⟩, writeBusy v s r)) ∨
    (∃ r, addr.toNat % 8 = 0 ∧ targetOf s.msgBytes addr.toNat = some r ∧ s.status.busy = false ∧
      portWrite addr v s = (⟨.okay, none⟩, writeIdle v s r)) := by
  by_cases ha : addr.toNat % 8 = 0
  · cases ht : targetOf s.msgBytes addr.toNat with
    | none => exact .inr (.inl ⟨ha, rfl, by simp [portWrite, ha, ht]⟩)
    | some r =>
      cases hb : s.status.busy with
      | false => exact .inr (.inr (.inr ⟨r, ha, rfl, rfl, by simp [portWrite, ha, ht, hb]⟩))
      | true => exact .inr (.inr (.inl ⟨r, ha, rfl, rfl, by simp [portWrite, ha, ht, hb]⟩))
  · exact .inl ⟨ha, by simp [portWrite, ha]⟩

/-- All a write during BUSY can do: STATUS, CTRL, or the overrun bit. -/
theorem writeBusy_cases (v : Word) (s : State) (r : Target) :
    (r = .status ∧ writeBusy v s r = s.setStatus (statusAfterWrite v s.status)) ∨
    (r = .ctrl ∧ writeBusy v s r = s.setCtrl (ctrlAfterWrite v)) ∨
    (r ≠ .status ∧ r ≠ .ctrl ∧ writeBusy v s r = s.setStatus (statusOverrun s.status)) := by
  cases r <;> simp [writeBusy]

/-- Which addresses the map sends to each target (R51). -/
theorem targetOf_some {n a : Nat} {r : Target} (h : targetOf n a = some r) :
    (a = 0x0000 ∧ r = .cmd) ∨ (a = 0x0008 ∧ r = .status) ∨ (a = 0x0010 ∧ r = .ctrl) ∨ (a = 0x0018 ∧ r = .len) ∨
    (a = 0x0020 ∧ r = .blkcnt) ∨
    (0x0040 ≤ a ∧ a ≤ 0x007F ∧ r = .h (Fin.ofNat 8 ((a - 0x0040) / 8))) ∨
    (0x0080 ≤ a ∧ a ≤ 0x00BF ∧ r = .raw (Fin.ofNat 8 ((a - 0x0080) / 8))) ∨
    (0x00C0 ≤ a ∧ a ≤ 0x0147 ∧ r = .hex (Fin.ofNat 17 ((a - 0x00C0) / 8))) ∨
    (0x1000 ≤ a ∧ a < 0x1000 + n ∧ r = .msg (a - 0x1000)) := by
  unfold targetOf at h
  repeat' split at h
  all_goals simp_all

theorem targetOf_h (n a : Nat) (h : 0x0040 ≤ a ∧ a ≤ 0x007F) :
    targetOf n a = some (.h (Fin.ofNat 8 ((a - 0x0040) / 8))) := by
  unfold targetOf
  iterate 5 rw [if_neg (by omega)]
  rw [if_pos h]

theorem targetOf_raw (n a : Nat) (h : 0x0080 ≤ a ∧ a ≤ 0x00BF) :
    targetOf n a = some (.raw (Fin.ofNat 8 ((a - 0x0080) / 8))) := by
  unfold targetOf
  iterate 6 rw [if_neg (by omega)]
  rw [if_pos h]

theorem targetOf_hex (n a : Nat) (h : 0x00C0 ≤ a ∧ a ≤ 0x0147) :
    targetOf n a = some (.hex (Fin.ofNat 17 ((a - 0x00C0) / 8))) := by
  unfold targetOf
  iterate 7 rw [if_neg (by omega)]
  rw [if_pos h]

theorem targetOf_msg (n a : Nat) (h : 0x1000 ≤ a ∧ a < 0x1000 + n) : targetOf n a = some (.msg (a - 0x1000)) := by
  unfold targetOf
  iterate 8 rw [if_neg (by omega)]
  rw [if_pos h]

/-- Every target of the map stands at an address the table of R51 lists. -/
theorem targetOf_mapped {n a : Nat} {r : Target} (h : targetOf n a = some r) (h8 : a % 8 = 0) :
    MappedAddress n a := by
  refine ⟨h8, ?_⟩
  rcases targetOf_some h with h | h | h | h | h | h | h | h | h <;> omega

/-- Every address the table of R51 lists has a target, and R54's arbitrary reads are those of its targets. -/
theorem mapped_targetOf {n a : Nat} (h : MappedAddress n a) :
    ∃ r, targetOf n a = some r ∧ (midUpdate r = true ↔ MidUpdateAddress a) := by
  obtain ⟨h8, h⟩ := h
  rcases h with h | h | h | h | h
  · have hs : a = 0 ∨ a = 8 ∨ a = 16 ∨ a = 24 ∨ a = 32 := by omega
    rcases hs with h | h | h | h | h <;> subst h <;> exact ⟨_, rfl, by simp [midUpdate, MidUpdateAddress]⟩
  · exact ⟨_, targetOf_h n a h, by simp [midUpdate, MidUpdateAddress]; omega⟩
  · exact ⟨_, targetOf_raw n a h, by simp [midUpdate, MidUpdateAddress]; omega⟩
  · exact ⟨_, targetOf_hex n a h, by simp [midUpdate, MidUpdateAddress]; omega⟩
  · exact ⟨_, targetOf_msg n a h, by simp [midUpdate, MidUpdateAddress]; omega⟩

/-- CMD, STATUS and CTRL each have one address. -/
theorem targetOf_control {n : Nat} {addr : Word} {r : Target} (h : targetOf n addr.toNat = some r) :
    (r = .cmd ↔ addr = 0x0000) ∧ (r = .status ↔ addr = 0x0008) ∧ (r = .ctrl ↔ addr = 0x0010) := by
  have hn : ∀ w : Word, addr.toNat = w.toNat → addr = w := fun w => BitVec.eq_of_toNat_eq
  refine ⟨⟨?_, ?_⟩, ⟨?_, ?_⟩, ⟨?_, ?_⟩⟩
  · rintro rfl
    exact hn 0x0000 (by simpa using targetOf_some h)
  · rintro rfl
    simpa [targetOf] using h.symm
  · rintro rfl
    exact hn 0x0008 (by simpa using targetOf_some h)
  · rintro rfl
    simpa [targetOf] using h.symm
  · rintro rfl
    exact hn 0x0010 (by simpa using targetOf_some h)
  · rintro rfl
    simpa [targetOf] using h.symm

/-- All a host transaction can do: nothing but an answer, a read of an arbitrary value, a write while BUSY = 1, or a
write while BUSY = 0. -/
theorem hostTurn_cases (t : Txn) (s : State) :
    (∃ a, hostTurn t s = s.pushAnswer a) ∨
    (∃ a, s.status.busy = true ∧ hostTurn t s = s.countDraw.pushAnswer a) ∨
    (∃ addr v r, t = .write addr v ∧ addr.toNat % 8 = 0 ∧ targetOf s.msgBytes addr.toNat = some r ∧
      s.status.busy = true ∧ hostTurn t s = (writeBusy v s r).pushAnswer ⟨.okay, none⟩) ∨
    (∃ addr v r, t = .write addr v ∧ addr.toNat % 8 = 0 ∧ targetOf s.msgBytes addr.toNat = some r ∧
      s.status.busy = false ∧ hostTurn t s = (writeIdle v s r).pushAnswer ⟨.okay, none⟩) := by
  cases t with
  | read addr =>
    rcases portRead_cases addr s with ⟨_, h⟩ | ⟨_, _, h⟩ | ⟨r, _, _, hb, _, h⟩ | ⟨r, _, _, _, h⟩
    all_goals simp only [hostTurn, transact, h]
    · exact .inl ⟨_, rfl⟩
    · exact .inl ⟨_, rfl⟩
    · exact .inr (.inl ⟨_, hb, rfl⟩)
    · exact .inl ⟨_, rfl⟩
  | write addr v =>
    rcases portWrite_cases addr v s with ⟨_, h⟩ | ⟨_, _, h⟩ | ⟨r, ha, ht, hb, h⟩ | ⟨r, ha, ht, hb, h⟩
    all_goals simp only [hostTurn, transact, h]
    · exact .inl ⟨_, rfl⟩
    · exact .inl ⟨_, rfl⟩
    · exact .inr (.inr (.inl ⟨addr, v, r, rfl, ha, ht, hb, rfl⟩))
    · exact .inr (.inr (.inr ⟨addr, v, r, rfl, ha, ht, hb, rfl⟩))

@[simp] theorem writeIdle_msgBytes (v : Word) (s : State) (r : Target) : (writeIdle v s r).msgBytes = s.msgBytes := by
  cases r <;> simp [writeIdle]

@[simp] theorem writeIdle_resets (v : Word) (s : State) (r : Target) : (writeIdle v s r).resets = s.resets := by
  cases r <;> simp [writeIdle]

@[simp] theorem writeIdle_events (v : Word) (s : State) (r : Target) : (writeIdle v s r).events = s.events := by
  cases r <;> simp [writeIdle]

@[simp] theorem writeIdle_answers (v : Word) (s : State) (r : Target) : (writeIdle v s r).answers = s.answers := by
  cases r <;> simp [writeIdle]

@[simp] theorem writeBusy_events (v : Word) (s : State) (r : Target) : (writeBusy v s r).events = s.events := by
  cases r <;> simp [writeBusy]

@[simp] theorem writeBusy_msgBytes (v : Word) (s : State) (r : Target) : (writeBusy v s r).msgBytes = s.msgBytes := by
  cases r <;> simp [writeBusy]

/-- No host transaction touches the events still to come. -/
theorem hostTurn_events (t : Txn) (s : State) : (hostTurn t s).events = s.events := by
  rcases hostTurn_cases t s with ⟨a, h⟩ | ⟨a, _, h⟩ | ⟨_, v, r, _, _, _, _, h⟩ | ⟨_, v, r, _, _, _, _, h⟩ <;>
    rw [h] <;> simp

/-- No host transaction changes the size of the buffer. -/
theorem hostTurn_msgBytes (t : Txn) (s : State) : (hostTurn t s).msgBytes = s.msgBytes := by
  rcases hostTurn_cases t s with ⟨a, h⟩ | ⟨a, _, h⟩ | ⟨_, v, r, _, _, _, _, h⟩ | ⟨_, v, r, _, _, _, _, h⟩ <;>
    rw [h] <;> simp

/-- A run of one step more, by its first step. -/
theorem run_succ {s t : State} (n : Nat) (h : step s = .next t) :
    Sys2Proof.core.run (n + 1) s = Sys2Proof.core.run n t := by
  have hs : Sys2Proof.core.step s = .next t := h
  simp only [Host.Core.run, hs]

/-- One step of the machine, by the next event of the total order (R65). -/
theorem step_cases (s : State) :
    (s.events = [] ∧ step s = engineTurn s) ∨
    (∃ rest, s.events = .engine :: rest ∧ step s = engineTurn (s.setEvents rest)) ∨
    (∃ t rest, s.events = .host t :: rest ∧ step s = .next (hostTurn t (s.setEvents rest))) ∨
    (∃ rest, s.events = .rst :: rest ∧ step s = .next (assertReset (s.setEvents rest))) := by
  unfold step nextEvent
  cases he : s.events with
  | nil => exact .inl ⟨rfl, rfl⟩
  | cons e rest =>
    cases e with
    | engine => exact .inr (.inl ⟨rest, rfl, rfl⟩)
    | host t => exact .inr (.inr (.inl ⟨t, rest, rfl, rfl⟩))
    | rst => exact .inr (.inr (.inr ⟨rest, rfl, rfl⟩))

/-- The bytes a port word of a fixed buffer is made of, and the bytes a port write of it leaves (R56). -/
theorem bufferWrite_get {n : Nat} (b : Vector Byte n) (k : Nat) (v : Word) (i : Nat) (hi : i < n) :
    (bufferWrite b k v)[i] = if i / 8 = k then byteOfWord v (i % 8) else b[i] := by
  unfold bufferWrite
  simp

end Sys2Proof.Machine
end

