-- ==== Sys2Proof/Laws/PerInstr.lean ====
section
/-! SUPPORT. The statements made command by command: the encoding of each is a legal word that decodes to it. -/

namespace Sys2Proof.Laws.Encoding

/-- A command is well formed, its word is legal (30_encoding.md R83), and the decoder reads the word as the command
(R84). -/
def Statement (i : Instr) : Prop :=
  wellFormed i = true ∧ wordLegal (encode i) = true ∧ decode (encode i) = .command i

theorem init : Statement .init := by unfold Statement; decide

theorem compress : Statement .compress := by unfold Statement; decide

theorem digest : Statement .digest := by unfold Statement; decide

theorem extract : Statement .extract := by unfold Statement; decide

theorem dump : Statement .dump := by unfold Statement; decide

theorem read : Statement .read := by unfold Statement; decide

end Sys2Proof.Laws.Encoding
end

