-- ==== Sys2Proof/Tests/Slice0.lean ====
section
/-! SUPPORT. Tests against the vectors of 95_test_vectors.md, with MSG_BYTES = 256 as they assume (00_scope.md R10),
and for every statement with hypotheses a state that meets them. -/

namespace Sys2Proof.Tests

-- Theorem after theorem, so that no thread waits for an earlier kernel evaluation.
set_option Elab.async false

open Sys2Proof Sys2Proof.Machine

/-! ### Helpers -/

/-- The reset state of the engine the vectors assume. -/
def small : State := State.resetWith 256

/-- The state a step answers, and `d` where it answers none. -/
def after (o : Host.Outcome State Fault Refusal) (d : State) : State :=
  match o with
  | .next t => t
  | .fault _ => d
  | .refused _ => d

theorem exec_after (i : Instr) (s : State) : exec i s = .next (after (exec i s) s) := by
  obtain ⟨c, u, _, h⟩ := exec_next i s
  rw [h]
  rfl

/-- `small` with n bytes 'a' written to MSG and LEN = len. -/
def ofA (n len : Nat) : State :=
  { small with msg := (List.range n).map fun i => (i, 0x61), len := BitVec.ofNat 64 len }

/-- `small` with "abc" in MSG and LEN = 3. -/
def ofAbc : State := { small with msg := [(0, 0x61), (1, 0x62), (2, 0x63)], len := 3 }

/-- `small` with Pad("abc") in MSG (R141) and LEN = 128. -/
def ofPaddedAbc : State :=
  { small with
    msg := [(0, 0x61), (1, 0x62), (2, 0x63), (3, 0x80)] ++ ((List.range 123).map fun i => (i + 4, 0x00)) ++
      [(127, 0x18)]
    len := 128 }

/-- `small` with RAW = 64 × 0x11 and a HEX of two characters by turns, then the byte `last`. -/
def ofHex (x y last : Byte) : State :=
  { small with
    raw := Vector.replicate 64 0x11
    hex := ⟨((List.replicate 64 [x, y]).flatten ++ [last]).toArray, by simp⟩ }

/-- The word STATUS reads, after one step that performs the command word `w` at `s`. -/
def statusFrom (s : State) (w : Nat) : Word := statusWord (after (step (s.withFetchWord 64 w)) s).status

/-! ### Well-formedness: each check refuses an ill-formed term (R10, R80, R82, R83) -/

theorem test_reserved_field_refused : reservedClear 0x102 = false ∧ wordLegal 0x102 = false ∧
    reservedClear 0x8000000000000002 = false := by decide
theorem test_unassigned_opcode_refused : opcodeAssigned 0x00 = false ∧ opcodeAssigned 0x07 = false ∧
    wordLegal 0xFF = false := by decide
theorem test_assigned_words_accepted : ∀ i, wellFormed i = true ∧ wordLegal (encode i) = true := by
  intro i; cases i <;> decide
theorem test_illegal_sizes_refused : sizeLegal 257 = false ∧ sizeLegal 248 = false ∧
    sizeLegal (2 ^ 64 - 0x1000 + 8) = false := by decide
theorem test_legal_sizes_accepted : sizeLegal 256 = true ∧ sizeLegal (2 ^ 64 - 0x1000) = true := by decide

/-! ### Decoding (V-ENC; R80, R82), each word written out: 56 bits of RSV, then 8 bits of OP -/

theorem test_decode_init : decode ((0 : BitVec 56) ++ 0b00000001#8) = .command .init := by decide
theorem test_decode_compress : decode ((0 : BitVec 56) ++ 0b00000010#8) = .command .compress := by decide
theorem test_decode_digest : decode ((0 : BitVec 56) ++ 0b00000011#8) = .command .digest := by decide
theorem test_decode_extract : decode ((0 : BitVec 56) ++ 0b00000100#8) = .command .extract := by decide
theorem test_decode_dump : decode ((0 : BitVec 56) ++ 0b00000101#8) = .command .dump := by decide
theorem test_decode_read : decode ((0 : BitVec 56) ++ 0b00000110#8) = .command .read := by decide
theorem test_decode_illegal : decode 0x00 = .illegal .unassignedOpcode ∧ decode 0xFF = .illegal .unassignedOpcode ∧
    decode 0x102 = .illegal .reservedBits := by decide
theorem test_encode_words : [Instr.init, .compress, .digest, .extract, .dump, .read].map encode =
    [0x01, 0x02, 0x03, 0x04, 0x05, 0x06] := by decide
theorem test_wide_table_word_is_no_command : decodeTableWord 72 (2 ^ 64 + 1) = none := by decide

/-- V-ENC: STATUS after each word at the reset state (the size of the buffer left free). -/
theorem test_status_after_each_word :
    [0x1, 0x2, 0x3, 0x4, 0x5, 0x6, 0x0, 0x7, 0xff, 0x102, 0x8000000000000002].map (statusFrom State.reset) =
      [0x2, 0x2, 0x2, 0x2, 0x2, 0x406, 0x106, 0x106, 0x106, 0x106, 0x106] := by decide +kernel

/-! ### Functions (V-FN, V-CMP, V-PAD) -/

theorem test_zero_block : compressBlock initVector (List.replicate 128 0x00) =
    #v[0xcf7881d5774acbe8, 0x533362e0fbc78070, 0x0267639d87460eda, 0x3086cb40e85931b0,
       0x717dc95288a023a3, 0x96bab2c14ce0b5e0, 0x6fc4fe04eae33e0b, 0x91f4d80cbd668bee] := by decide +kernel
theorem test_first_round_of_abc : (roundStep (loadWork initVector) 0x428a2f98d728ae22 0x6162638000000000).a =
    0xf6afceb8bcfcddf5 ∧ (roundStep (loadWork initVector) 0x428a2f98d728ae22 0x6162638000000000).e =
    0x58cb02347ab51f91 := by decide +kernel
theorem test_zero_counts : [0, 111, 112, 127, 128, 239, 240].map zeroCount = [111, 0, 127, 112, 111, 0, 127] ∧
    [0, 111, 112, 127, 128, 239, 240].map blockCount = [1, 1, 2, 2, 2, 2, 3] := by decide
theorem test_padded_empty_message : pad [] = 0x80 :: List.replicate 127 0x00 := by decide +kernel

/-- R132, its layout (note 13): bits 71:64 of the bit length of 2^61 bytes stand in byte 7 of the field. -/
theorem test_length_field_layout : bigEndian 16 (8 * 2 ^ 61) = List.replicate 7 0x00 ++ [0x01] ++ List.replicate 8 0x00 := by
  decide +kernel

/-! ### Commands, one step each -/

/-- R160, the example: H = 0, INIT. -/
theorem test_init : (after (exec .init { small with h := Vector.replicate 8 0 }) small).h[0] =
    0x6a09e667f3bcc908 := by decide +kernel
/-- V-ENC: INIT checks no LEN. -/
theorem test_init_checks_no_len : statusFrom { small with len := 300 } 1 = 0x2 := by decide +kernel

/-- V-CMP: two blocks of 'a'. -/
theorem test_compress_two_blocks : (after (exec .compress (ofA 256 256)) small).h =
    #v[0xb5ddfe7f6f0ec7ee, 0xd0dd6afd45d7e919, 0x23bad8f162a5bb4a, 0x7dc953f0d2c270c8,
       0xd75b2b28aa668482, 0x747a4c65cf09f8c7, 0x4b34ef80e60d15bc, 0xef8d27970b16b406] ∧
    (after (exec .compress (ofA 256 256)) small).blkcnt = 2 := by decide +kernel
/-- V-CMP: LEN = 0, 3 and 259. -/
theorem test_compress_checks : [0, 3, 259].map (fun n => statusFrom (ofA 256 n) 2) = [0x2, 0x306, 0x206] := by
  decide +kernel

/-- V-DIG, "abc". -/
theorem test_digest_abc : (after (exec .digest ofAbc) small).h =
    #v[0xddaf35a193617aba, 0xcc417349ae204131, 0x12e6fa4e89a97ea2, 0x0a9eeee64b55d39a,
       0x2192992a274fc1a8, 0x36ba3c23a3feebbd, 0x454d4423643ce80e, 0x2a9ac94fa54ca49f] ∧
    (after (exec .digest ofAbc) small).raw[63] = 0x9f := by decide +kernel
/-- V-DIG, 'a' × 112 and LEN = 257; P6. -/
theorem test_digest_boundaries : bufferWord (after (exec .digest (ofA 112 112)) small).raw 0 = 0xc01d080efd492776 ∧
    (after (exec .digest (ofA 112 112)) small).blkcnt = 2 ∧ statusFrom (ofA 256 257) 3 = 0x206 := by decide +kernel

/-- V-DIG: EXTRACT at the reset state. -/
theorem test_extract : bufferWord (after (exec .extract small) small).raw 0 = 0x6a09e667f3bcc908 ∧
    bufferWord (after (exec .extract small) small).raw 7 = 0x5be0cd19137e2179 := by decide +kernel

/-- V-CODEC-2: the null raw digest is not dumped as the null hex digest. -/
theorem test_dump_null : ([0, 7, 15, 16].map fun k => bufferWord (after (exec .dump small) small).hex k) =
    [0x3030303030303030, 0x3030303030303030, 0x3030303030303030, 0] := by decide +kernel
/-- V-CODEC-1: the bytes 00 to 3f. -/
theorem test_dump_counting : bufferWord (after (exec .dump { small with
      raw := Vector.ofFn fun i : Fin 64 => BitVec.ofNat 8 i.val }) small).hex 15 = 0x3363336433653366 := by
  decide +kernel

/-- V-CODEC-3: "Ab" × 64. -/
theorem test_read_mixed_case : (([0, 7] : List Nat).map fun k =>
      bufferWord (after (exec .read (ofHex 0x41 0x62 0x00)) small).raw k) = [0xabababababababab, 0xabababababababab] ∧
    statusFrom (ofHex 0x41 0x62 0x00) 6 = 0x2 := by decide +kernel
/-- V-CODEC-4: a byte in HEX[128], a character that is no hex digit, and the null hex digest. -/
theorem test_read_malformed : (after (exec .read (ofHex 0x30 0x30 0x30)) small).raw = Vector.replicate 64 0x11 ∧
    statusFrom (ofHex 0x30 0x30 0x30) 6 = 0x406 ∧ statusFrom (ofHex 0x20 0x30 0x00) 6 = 0x406 ∧
    statusFrom small 6 = 0x406 := by decide +kernel

/-! ### Port (V-PORT) -/

theorem test_port_responses :
    [0x0004, 0x0028, 0x0148, 0x1100, 0x0000].map (fun a => (portRead a small).1) =
      [⟨.slverr, none⟩, ⟨.decerr, none⟩, ⟨.decerr, none⟩, ⟨.decerr, none⟩, ⟨.okay, some 0⟩] ∧
    (portRead 0x10F8 small).1.resp = .okay ∧ (portWrite 0x000C 1 small).1.resp = .slverr := by decide +kernel
theorem test_port_writes :
    (portRead 0x0140 (portWrite 0x0140 0xffffffffffffffff small).2).1.data = some 0xff00000000000000 ∧
    (portRead 0x0010 (portWrite 0x0010 0xffffffffffffffff small).2).1.data = some 1 ∧
    (portRead 0x0020 (portWrite 0x0020 5 small).2).1.data = some 0 ∧
    (portRead 0x1000 (portWrite 0x1000 0x6162630000000000 small).2).1.data = some 0x6162630000000000 := by
  decide +kernel
/-- P5: `wr LEN, 5` ordered before the completion of INIT. -/
theorem test_overrun : statusWord (portWrite 0x0018 5 (accept 1 small)).2.status = 0x9 ∧
    (portWrite 0x0018 5 (accept 1 small)).2.len = 0 := by decide +kernel
/-- R89, the example. -/
theorem test_cmd_digest_transactions : portTransactions (expand 0 (.cmd .digest)) =
    [.write 0x0000 0x0000000000000003] := by decide
/-- P3: the transactions of `ldmsg` over 16 bytes. -/
theorem test_ldmsg_transactions : portTransactions (expand 0 (.ldmsg [0x61, 0x62, 0x63, 0x80, 0, 0, 0, 0, 0x18])) =
    [.write 0x1000 0x6162638000000000, .write 0x1008 0x1800000000000000] := by decide +kernel

/-! ### Witnesses: each statement's hypotheses are met, at the boundaries of its clauses -/

theorem test_witness_IllegalWordsRaiseIllegalCmd :
    (([0x100, 0x102, 0x8000000000000002] : List Word).all fun w =>
      (accept w small).status.busy && decode (accept w small).pend == .illegal .reservedBits) ∧
    (([0x00, 0x07, 0xFF] : List Word).all fun w =>
      (accept w small).status.busy && decode (accept w small).pend == .illegal .unassignedOpcode) := by decide +kernel

theorem test_witness_TableWordIsWhatTheNextStepPerforms :
    decodeTableWord 64 0x1 = some .init ∧ decodeTableWord 64 0x6 = some .read := by decide

theorem test_witness_CmdWriteAcceptsTheWord :
    small.status.busy = false ∧ (accept 2 small).status.busy = true := by decide

theorem test_witness_StepPerformsThePendingCommand :
    ((accept 3 small).status.busy = true ∧ EngineMoves (accept 3 small) ∧
      decode (accept 3 small).pend = .command .digest) ∧
    ((accept 7 (small.setEvents [.engine])).status.busy = true ∧ EngineMoves (accept 7 (small.setEvents [.engine])) ∧
      decode (accept 7 (small.setEvents [.engine])).pend = .illegal .unassignedOpcode) :=
  ⟨⟨rfl, Or.inl rfl, by decide⟩, rfl, Or.inr ⟨[], rfl⟩, by decide⟩

theorem test_witness_IdleEngineHasNoStep :
    small.status.busy = false ∧ small.events = [] ∧ (small.setEvents [.engine]).status.busy = false ∧
      (small.setEvents [.engine]).events = .engine :: [] := by decide

theorem test_witness_EveryCommandEndsWithCompletion : (accept 6 small).status.busy = true := by decide

theorem test_witness_ErrorChangesOnlyStatus :
    exec .read small = .next (after (exec .read small) small) ∧ (after (exec .read small) small).status.err = true :=
  ⟨exec_after _ _, by decide +kernel⟩

theorem test_witness_FirstErrorInOrderIsReported :
    (ofA 0 257).msgBytes < (ofA 0 257).len.toNat ∧ (ofA 0 255).len.toNat % 128 ≠ 0 ∧
    ¬HexWellFormed small.hex ∧ HexWellFormed (ofHex 0x30 0x46 0x00).hex ∧
    (accept 0x102 small).status.busy = true ∧ decode (accept 0x102 small).pend = .illegal .reservedBits := by
  decide +kernel

/-- The state after the next step. -/
def stepped (s : State) : State := after (step s) s

theorem engineTurn_after (s : State) : engineTurn s = .next (after (engineTurn s) s) := by
  rcases engineTurn_next s with ⟨_, h⟩ | ⟨_, c, u, _, h⟩ <;> rw [h] <;> rfl

theorem step_stepped (s : State) : step s = .next (stepped s) := by
  unfold stepped
  rcases step_cases s with ⟨_, h⟩ | ⟨rest, _, h⟩ | ⟨t, rest, _, h⟩ | ⟨rest, _, h⟩ <;> rw [h]
  · exact engineTurn_after s
  · rw [engineTurn_after (s.setEvents rest)]; rfl
  · rfl
  · rfl

/-- `small` with the events `es` to come. -/
def withEvents (s : State) (es : List Event) : State := s.setEvents es

/-- INIT accepted, CTRL.IE and OVR as given, with the events `es` to come. -/
def busyWith (ie ovr : Bool) (es : List Event) : State :=
  { accept 1 small with
    ctrl := { ie := ie }
    status := { (accept 1 small).status with ovr := ovr }
    events := es }

/-- An engine after a completion, CTRL.IE and OVR as given, with the events `es` to come. -/
def doneWith (ie ovr : Bool) (es : List Event) : State :=
  { complete .none small with
    ctrl := { ie := ie }
    status := { (complete .none small).status with ovr := ovr }
    events := es }

theorem test_witness_BusyRisesByAcceptanceAndFallsByCompletion :
    (step (withEvents small [.host (.write 0 2)]) = .next (stepped (withEvents small [.host (.write 0 2)])) ∧
      (withEvents small [.host (.write 0 2)]).status.busy = false ∧
      (stepped (withEvents small [.host (.write 0 2)])).status.busy = true) ∧
    (step (busyWith false false []) = .next (stepped (busyWith false false [])) ∧
      (busyWith false false []).status.busy = true ∧ (stepped (busyWith false false [])).status.busy = false) ∧
    (step (busyWith false false [.rst]) = .next (stepped (busyWith false false [.rst])) ∧
      (busyWith false false [.rst]).status.busy = true ∧
      (stepped (busyWith false false [.rst])).status.busy = false) :=
  ⟨⟨step_stepped _, by decide +kernel⟩, ⟨step_stepped _, by decide +kernel⟩, step_stepped _, by decide +kernel⟩

theorem test_witness_CompressFoldsWholeBlocks :
    ((ofA 256 256).len.toNat ≤ (ofA 256 256).msgBytes ∧ (ofA 256 256).len.toNat % 128 = 0) ∧
    ((ofA 0 0).len.toNat ≤ (ofA 0 0).msgBytes ∧ (ofA 0 0).len.toNat % 128 = 0) ∧
    (ofA 0 257).msgBytes < (ofA 0 257).len.toNat ∧ (ofA 0 384).msgBytes < (ofA 0 384).len.toNat ∧
    ((ofA 0 255).len.toNat ≤ (ofA 0 255).msgBytes ∧ (ofA 0 255).len.toNat % 128 ≠ 0) ∧
    ((ofA 0 1).len.toNat ≤ (ofA 0 1).msgBytes ∧ (ofA 0 1).len.toNat % 128 ≠ 0) := by decide

/-- 'a' × 128 twice, from IV, against 'a' × 256. -/
theorem test_witness_CompressComposesOverCommands :
    ∃ sy tx : State, (ofA 128 128).len.toNat = 128 * 1 ∧ sy.len.toNat = 128 * 1 ∧
      (ofA 256 256).len.toNat = 128 * (1 + 1) ∧ (ofA 128 128).len.toNat ≤ (ofA 128 128).msgBytes ∧
      sy.len.toNat ≤ sy.msgBytes ∧ (ofA 256 256).len.toNat ≤ (ofA 256 256).msgBytes ∧
      (∀ i < 128 * 1, messageByte (ofA 256 256) i = messageByte (ofA 128 128) i) ∧
      (∀ i < 128 * 1, messageByte (ofA 256 256) (128 * 1 + i) = messageByte sy i) ∧
      (ofA 256 256).h = (ofA 128 128).h ∧ exec .compress (ofA 128 128) = .next tx ∧ sy.h = tx.h :=
  ⟨(ofA 128 128).setH (after (exec .compress (ofA 128 128)) (ofA 128 128)).h, after (exec .compress (ofA 128 128)) (ofA 128 128),
    by decide, by decide, by decide, by decide, by decide, by decide, by decide +kernel, by decide +kernel, rfl,
    exec_after _ _, rfl⟩

theorem test_witness_RotateAndShiftMoveBits : (0 < 1 ∧ 1 < 64 ∧ 0 < 64) ∧ 0 < 63 ∧ 63 < 64 ∧ 63 < 64 := by decide

theorem test_witness_PaddingAppendsMarkZerosAndBitLength :
    8 * (List.replicate 111 (0x61 : Byte)).length < 2 ^ 128 ∧ 8 * (List.replicate 112 (0x61 : Byte)).length < 2 ^ 128 ∧
    8 * ([] : List Byte).length < 2 ^ 128 := by decide +kernel

theorem test_witness_PaddingIsReversible :
    8 * ([0x61, 0x62, 0x63] : List Byte).length < 2 ^ 128 ∧
    pad [0x61, 0x62, 0x63] = pad (List.map (BitVec.ofNat 8) [0x61, 0x62, 0x63]) := by decide +kernel

theorem test_witness_DigestHashesTheMessage :
    (ofA 256 256).len.toNat ≤ (ofA 256 256).msgBytes ∧ small.len.toNat ≤ small.msgBytes ∧
    (ofA 0 257).msgBytes < (ofA 0 257).len.toNat := by decide

/-- The same message in buffers of other sizes, before other bytes, from other chaining states. -/
theorem test_witness_DigestDependsOnlyOnTheMessage :
    ∃ s' t t' : State, s'.len = (ofA 256 112).len ∧ (ofA 256 112).len.toNat ≤ (ofA 256 112).msgBytes ∧
      s'.len.toNat ≤ s'.msgBytes ∧ s'.msgBytes = 264 ∧
      (∀ i < (ofA 256 112).len.toNat, messageByte s' i = messageByte (ofA 256 112) i) ∧
      exec .digest (ofA 256 112) = .next t ∧ exec .digest s' = .next t' :=
  ⟨{ ofA 112 112 with msgBytes := 264, h := Vector.replicate 8 0 }, _, _, by decide, by decide, by decide, by decide,
    by decide +kernel, exec_after _ _, exec_after _ _⟩

theorem test_witness_DigestOfTheEmptyMessage : small.len = 0 := by decide

theorem test_witness_DigestEqualsInitCompressExtract :
    ofAbc.len.toNat ≤ ofAbc.msgBytes ∧ ofPaddedAbc.len.toNat = 128 * blockCount ofAbc.len.toNat ∧
    ofPaddedAbc.len.toNat ≤ ofPaddedAbc.msgBytes ∧
    ∀ i < ofPaddedAbc.len.toNat, some (messageByte ofPaddedAbc i) = (pad (memRead ofAbc 0 ofAbc.len.toNat))[i]? := by
  decide +kernel

theorem test_witness_ExtractSerialisesTheChain : 0 < 8 ∧ 7 < 8 := by decide

theorem test_witness_RawWordsReadAsTheChainAfterExtract : small.status.busy = false ∧ 0 < 8 ∧ 7 < 8 := by decide

theorem test_witness_ReadDecodesWellFormedHex :
    ((ofHex 0x41 0x66 0x00).hex[128] = 0x00 ∧
      ∀ (i : Nat) (_ : i < 128), ∃ n, hexValue (ofHex 0x41 0x66 0x00).hex[i] = some n) ∧
    (ofHex 0x30 0x39 0x01).hex[128] ≠ 0x00 ∧ hexValue (ofHex 0x47 0x30 0x00).hex[0] = none ∧
    hexValue (ofHex 0x30 0x67 0x00).hex[127] = none := by
  have h : ∀ i : Fin 128, (hexValue ((ofHex 0x41 0x66 0x00).hex[i.val]'(by omega))).isSome := by decide +kernel
  exact ⟨⟨by decide +kernel, fun i hi => Option.isSome_iff_exists.mp (h ⟨i, hi⟩)⟩, by decide +kernel⟩

theorem test_witness_MalformedHexIsRejected :
    small.hex[127] = 0x00 ∧ (ofHex 0x30 0x30 0x30).hex[128] ≠ 0x00 ∧ (ofHex 0x67 0x30 0x00).hex[0] = 0x67 ∧
    (ofHex 0x30 0x67 0x00).hex[127] = 0x67 := by decide +kernel

theorem test_witness_CodecRoundTrips : HexWellFormed (ofHex 0x30 0x66 0x00).hex ∧
    ∀ (i : Nat) (_ : i < 128), ¬(0x41 ≤ (ofHex 0x30 0x66 0x00).hex[i].toNat ∧ (ofHex 0x30 0x66 0x00).hex[i].toNat ≤ 0x46) := by
  have h : ∀ i : Fin 128, ¬(0x41 ≤ ((ofHex 0x30 0x66 0x00).hex[i.val]'(by omega)).toNat ∧
      ((ofHex 0x30 0x66 0x00).hex[i.val]'(by omega)).toNat ≤ 0x46) := by decide +kernel
  exact ⟨by decide +kernel, fun i hi => h ⟨i, hi⟩⟩

theorem test_witness_DecodingNormalisesCase :
    hexEncode (Vector.replicate 64 0xab) = hexEncode (Vector.replicate 64 (0xaa + 1)) ∧
    HexWellFormed (ofHex 0x41 0x62 0x00).hex ∧ HexWellFormed (ofHex 0x46 0x66 0x00).hex :=
  ⟨congrArg hexEncode (by decide +kernel), by decide +kernel⟩

theorem test_witness_EachRegisterHasItsWriters :
    exec .compress (ofA 256 256) = .next (after (exec .compress (ofA 256 256)) (ofA 256 256)) ∧
    exec .dump small = .next (after (exec .dump small) small) := ⟨exec_after _ _, exec_after _ _⟩

theorem test_witness_BlkcntCountsCompressions :
    (exec .compress (ofA 256 256) = .next (after (exec .compress (ofA 256 256)) (ofA 256 256)) ∧
      (after (exec .compress (ofA 256 256)) (ofA 256 256)).status.err = false) ∧
    (exec .digest (ofA 112 112) = .next (after (exec .digest (ofA 112 112)) (ofA 112 112)) ∧
      (after (exec .digest (ofA 112 112)) (ofA 112 112)).status.err = false) ∧
    (exec .digest (ofA 0 257) = .next (after (exec .digest (ofA 0 257)) (ofA 0 257)) ∧
      (after (exec .digest (ofA 0 257)) (ofA 0 257)).status.err = true) ∧ small.status.busy = false :=
  ⟨⟨exec_after _ _, by decide +kernel⟩, ⟨exec_after _ _, by decide +kernel⟩, ⟨exec_after _ _, by decide +kernel⟩,
    by decide⟩

theorem test_witness_MisalignedTransactionsAnswerSlverr :
    ([0x0004, 0x000C, 0x0001, 0x1007, 0x0029, 0xFFFFFFFFFFFFFFFF] : List Word).all fun a => a.toNat % 8 ≠ 0 := by
  decide +kernel

theorem test_witness_UnmappedTransactionsAnswerDecerr :
    (transact (.write 0x000C 1) small).1.resp ≠ .okay ∧ (transact (.read 0x0028) small).1.resp ≠ .okay ∧
    ([0x0028, 0x0038, 0x0148, 0x0FF8, 0x1100, 0xFFFFFFFFFFFFFFF8] : List Word).all fun a => a.toNat % 8 = 0 ∧
      ((0x0028 ≤ a.toNat ∧ a.toNat ≤ 0x003F) ∨ (0x0148 ≤ a.toNat ∧ a.toNat ≤ 0x0FFF) ∨
        0x1000 + small.msgBytes ≤ a.toNat) := by decide +kernel

theorem test_witness_IdleWritesReadBack : small.status.busy = false ∧
    ∀ i : Fin 9, ∃ a, ([0x0018, 0x0040, 0x0078, 0x0080, 0x00B8, 0x00C0, 0x0138, 0x1000, 0x10F8] : List Word)[i.val]? =
      some a ∧ MappedAddress small.msgBytes a.toNat ∧
      (a.toNat = 0x0018 ∨ (0x0040 ≤ a.toNat ∧ a.toNat < 0x0140) ∨ 0x1000 ≤ a.toNat) := by
  unfold MappedAddress
  exact ⟨rfl, by intro i; fin_cases i <;> exact ⟨_, rfl, by decide +kernel⟩⟩

theorem test_witness_BufferWordsPackBigEndian : small.status.busy = false ∧ 0 < 8 ∧ 7 < 8 ∧ 15 < 16 ∧
    (0x1000 : Word).toNat = 0x1000 + 8 * 0 ∧ 8 * 0 < small.msgBytes ∧
    (0x10F8 : Word).toNat = 0x1000 + 8 * 31 ∧ 8 * 31 < small.msgBytes := by decide

theorem test_witness_LastHexWordHoldsOneByte : small.status.busy = false := by decide

theorem test_witness_LenIsWrittenByTheHostAlone :
    small.status.busy = false ∧ EngineMoves (accept 3 (ofA 0 257)) ∧
    step (accept 3 (ofA 0 257)) = .next (stepped (accept 3 (ofA 0 257))) ∧
    (ofA 0 257).msgBytes < (ofA 0 257).len.toNat :=
  ⟨by decide, Or.inl rfl, step_stepped _, by decide⟩

theorem test_witness_AccessWhileBusy :
    (busyWith false false []).status.busy = true ∧ (busyWith false false []).msgBytes = 256 ∧
    (∀ i : Fin 5, ∃ a, ([0x0000, 0x0010, 0x0018, 0x1000, 0x10F8] : List Word)[i.val]? = some a ∧
      MappedAddress 256 a.toNat ∧ ¬MidUpdateAddress a.toNat ∧ a ≠ 0x0008) ∧
    MappedAddress 256 (0x0008 : Word).toNat ∧
    ∀ i : Fin 6, ∃ a, ([0x0020, 0x0040, 0x0078, 0x0080, 0x00C0, 0x0140] : List Word)[i.val]? = some a ∧
      MappedAddress 256 a.toNat ∧ MidUpdateAddress a.toNat ∧ a ≠ 0x0008 ∧ a ≠ 0x0010 := by
  unfold MappedAddress MidUpdateAddress
  exact ⟨rfl, rfl, by intro i; fin_cases i <;> exact ⟨_, rfl, by decide +kernel⟩, by decide +kernel,
    by intro i; fin_cases i <;> exact ⟨_, rfl, by decide +kernel⟩⟩

theorem test_witness_ReadsHaveNoSideEffect : small.status.busy = false := by decide

theorem test_witness_OperandsAreStableWhileBusy : (busyWith true true []).status.busy = true := by decide

theorem test_witness_OverrunIsStickyAndRecordsDiscardedWrites :
    (([0x0000, 0x0018, 0x1000] : List Word).all fun a =>
      !(busyWith false false [.host (.write a 5)]).status.ovr &&
      (stepped (busyWith false false [.host (.write a 5)])).status.ovr) ∧
    (([.host (.write 8 8), .rst] : List Event).all fun e => (doneWith false true [e]).status.ovr &&
      !(stepped (doneWith false true [e])).status.ovr) ∧
    (MappedAddress (busyWith false false []).msgBytes (0x10F8 : Word).toNat ∧
      exec .read (busyWith false false []) =
        .next (after (exec .read (busyWith false false [])) (busyWith false false []))) ∧
    ∀ s, step s = .next (stepped s) :=
  ⟨by decide +kernel, by decide +kernel, ⟨by unfold MappedAddress; decide +kernel, exec_after _ _⟩, step_stepped⟩

theorem test_witness_InterruptRisesAndFalls :
    exec .read small = .next (after (exec .read small) small) ∧
    ((busyWith true false []).irq = false ∧ (stepped (busyWith true false [])).irq = true) ∧
    ((doneWith false false [.host (.write 0x10 1)]).irq = false ∧
      (stepped (doneWith false false [.host (.write 0x10 1)])).irq = true) ∧
    (∀ e ∈ ([.host (.write 8 2), .host (.write 0x10 0), .host (.write 0 1), .rst] : List Event),
      (doneWith true false [e]).irq = true ∧ (stepped (doneWith true false [e])).irq = false) ∧
    ∀ s, step s = .next (stepped s) :=
  ⟨exec_after _ _, by decide +kernel, by decide +kernel, by decide +kernel, step_stepped⟩

theorem test_witness_ResetPutsEveryRegister :
    ResetMoves (busyWith true true [.rst, .engine]) ∧
    step (busyWith true true [.rst, .engine]) = .next (stepped (busyWith true true [.rst, .engine])) :=
  ⟨⟨_, rfl⟩, step_stepped _⟩

theorem test_witness_ResetLeavesTheEngineIdle :
    (ResetMoves (busyWith true true [.rst]) ∧
      step (busyWith true true [.rst]) = .next (stepped (busyWith true true [.rst]))) ∧
    (doneWith true true [.host (.write 0x18 0)]).status.busy = false ∧
    (∀ w, ¬HostMoves (doneWith true true [.host (.write 0x18 0)]) (.write 0x0000 w)) ∧
    step (doneWith true true [.host (.write 0x18 0)]) =
      .next (stepped (doneWith true true [.host (.write 0x18 0)])) := by
  refine ⟨⟨⟨_, rfl⟩, step_stepped _⟩, rfl, ?_, step_stepped _⟩
  rintro w ⟨rest, h⟩
  simp [doneWith] at h

/-- The command is accepted, MSG written, and the host writes the last word of MSG next. -/
theorem test_witness_EveryStepKeepsCoherence :
    Coherent (withEvents (ofA 16 16) [.host (.write 0x10F8 1)]) ∧
    step (withEvents (ofA 16 16) [.host (.write 0x10F8 1)]) =
      .next (stepped (withEvents (ofA 16 16) [.host (.write 0x10F8 1)])) :=
  ⟨⟨by decide +kernel, by decide +kernel, by decide +kernel, by decide +kernel, by decide +kernel⟩, step_stepped _⟩

theorem test_witness_ScriptExecWaitsForCompletion :
    (withEvents ofAbc (expand 2 (.exec .digest))).status.busy = false ∧
    (withEvents ofAbc (expand 2 (.exec .digest))).events = expand 2 (.exec .digest) ∧
    (withEvents ofAbc (expand 0 (.exec .digest))).events = expand 0 (.exec .digest) := by decide +kernel

end Sys2Proof.Tests
end

section
/-! PROOFS. The registers LEN, BLKCNT and CTRL (10_state.md R24, R26, R31): who writes each, and what the port reads. -/

namespace Sys2Proof.Proofs.Registers

open Sys2Proof Sys2Proof.Machine

/-! ### The port at the addresses of LEN, BLKCNT and CTRL -/

/-- A port read of an address the map of R51 gives to `r`, where R54 does not leave the value open. -/
theorem portRead_of_target {addr : Word} {s : State} {r : Target} (ha : addr.toNat % 8 = 0)
    (ht : targetOf s.msgBytes addr.toNat = some r) (hr : s.status.busy = false ∨ midUpdate r = false) :
    portRead addr s = (⟨.okay, some (readTarget s r)⟩, s) := by
  rcases hr with hb | hm
  · simp [portRead, ha, ht, hb]
  · simp [portRead, ha, ht, hm]

/-- A port write to an address the map of R51 gives to `r`. -/
theorem portWrite_of_target {addr : Word} {s : State} {r : Target} (v : Word) (ha : addr.toNat % 8 = 0)
    (ht : targetOf s.msgBytes addr.toNat = some r) :
    portWrite addr v s = (⟨.okay, none⟩, if s.status.busy then writeBusy v s r else writeIdle v s r) := by
  simp [portWrite, ha, ht]

theorem portWrite_ctrl (s : State) (v : Word) :
    portWrite 0x0010 v s = (⟨.okay, none⟩, s.setCtrl (ctrlAfterWrite v)) := by
  rw [portWrite_of_target (r := .ctrl) v rfl rfl]
  cases s.status.busy <;> rfl

theorem portRead_ctrl (s : State) : portRead 0x0010 s = (⟨.okay, some (ctrlWord s.ctrl)⟩, s) :=
  portRead_of_target (r := .ctrl) rfl rfl (.inr rfl)

theorem portWrite_len_idle {s : State} (v : Word) (hb : s.status.busy = false) :
    portWrite 0x0018 v s = (⟨.okay, none⟩, s.setLen v) := by
  rw [portWrite_of_target (r := .len) v rfl rfl, hb]
  rfl

theorem portRead_len (s : State) : portRead 0x0018 s = (⟨.okay, some s.len⟩, s) :=
  portRead_of_target (r := .len) rfl rfl (.inr rfl)

theorem portWrite_blkcnt_idle {s : State} (v : Word) (hb : s.status.busy = false) :
    portWrite 0x0020 v s = (⟨.okay, none⟩, s) := by
  rw [portWrite_of_target (r := .blkcnt) v rfl rfl, hb]
  rfl

theorem portRead_blkcnt_idle {s : State} (hb : s.status.busy = false) :
    portRead 0x0020 s = (⟨.okay, some s.blkcnt⟩, s) :=
  portRead_of_target (r := .blkcnt) rfl rfl (.inl hb)

@[simp] theorem writeIdle_blkcnt (v : Word) (s : State) (r : Target) : (writeIdle v s r).blkcnt = s.blkcnt := by
  cases r <;> simp [writeIdle]

@[simp] theorem writeBusy_blkcnt (v : Word) (s : State) (r : Target) : (writeBusy v s r).blkcnt = s.blkcnt := by
  rcases writeBusy_cases v s r with ⟨_, h⟩ | ⟨_, h⟩ | ⟨_, _, h⟩ <;> rw [h] <;> rfl

/-- No host write, to any address and whatever BUSY is, changes BLKCNT (R26). -/
theorem portWrite_keeps_blkcnt (addr v : Word) (s : State) : (portWrite addr v s).2.blkcnt = s.blkcnt := by
  rcases portWrite_cases addr v s with ⟨_, h⟩ | ⟨_, _, h⟩ | ⟨r, _, _, _, h⟩ | ⟨r, _, _, _, h⟩ <;> simp [h]

/-! ### CTRL -/

theorem ctrlWord_eq (c : Ctrl) : ctrlWord c = if c.ie then 1 else 0 := by
  obtain ⟨ie⟩ := c
  cases ie <;> rfl

/-- CTRL reads back what was written, masked to bit 0. -/
theorem ctrlWord_ctrlAfterWrite (v : Word) : ctrlWord (ctrlAfterWrite v) = v &&& 1 := by
  have hand : v &&& 1 = (BitVec.ofBool (v.getLsbD 0)).setWidth 64 := BitVec.and_one_eq_setWidth_ofBool_getLsbD
  rw [hand, ctrlWord_eq, ctrlAfterWrite_ie]
  cases v.getLsbD 0 <;> rfl

theorem irq_eq (s : State) : s.irq = if s.ctrl.ie then s.status.done else false := by
  cases h : s.ctrl.ie <;> simp [State.irq, h]

/-- Settles O48: the address 0x0010 is that of CTRL whatever BUSY is, and both kinds of write give CTRL its bit 0. -/
theorem ctrlKeepsOnlyTheInterruptEnable : Obligations.CtrlKeepsOnlyTheInterruptEnable := by
  intro s v
  refine ⟨portWrite_ctrl s v, ?read, ?readBack, irq_eq s, rfl⟩
  case read => rw [portRead_ctrl, ctrlWord_eq]
  case readBack => rw [portWrite_ctrl, portRead_ctrl, State.setCtrl_ctrl, ctrlWord_ctrlAfterWrite]

/-! ### LEN -/

/-- Where the engine agent moves, the step is its turn with that event taken off. -/
theorem step_of_engineMoves {s : State} (hm : EngineMoves s) :
    step s = engineTurn (s.setEvents s.events.tail) := by
  rcases hm with he | ⟨rest, he⟩
  · have hs : s.setEvents [] = s := by rw [← he]; rfl
    simp [step, nextEvent, he, hs]
  · simp [step, nextEvent, he]

/-- The engine never writes LEN (R24): a turn of it is nothing, or a completion that differs in results only. -/
theorem engineTurn_keeps_len {s t : State} (h : engineTurn s = .next t) : t.len = s.len := by
  rcases engineTurn_next s with ⟨_, hi⟩ | ⟨_, c, u, hu, hc⟩
  · cases hi.symm.trans h
    rfl
  · cases hc.symm.trans h
    exact (complete_len u c).trans (differs_len hu)

/-- COMPRESS and DIGEST check LEN against the buffer first (R240). -/
theorem exec_of_len_out_of_range {s : State} {i : Instr} (hi : i = .compress ∨ i = .digest)
    (hl : s.msgBytes < s.len.toNat) : exec i s = .next (complete .lenRange s) := by
  rcases hi with rfl | rfl
  · rcases execCompress_cases s with ⟨_, h⟩ | ⟨hf, _⟩ | ⟨hf, _⟩
    · exact h
    all_goals omega
  · rcases execDigest_cases s with ⟨_, h⟩ | ⟨hf, _⟩
    · exact h
    · omega

/-- Settles O49: the port reads and writes LEN itself, and the engine's turn, the only step of the engine, keeps it. -/
theorem lenIsWrittenByTheHostAlone : Obligations.LenIsWrittenByTheHostAlone := by
  refine ⟨fun _ v => portWrite_len_idle v, portRead_len, ?engine, ?check, rfl⟩
  case engine =>
    intro s t hm h
    rw [step_of_engineMoves hm] at h
    exact (engineTurn_keeps_len h).trans (State.setEvents_len s _)
  case check =>
    intro s i hi hl
    exact ⟨_, exec_of_len_out_of_range hi hl, rfl⟩

/-! ### BLKCNT -/

/-- A COMPRESS without error counts the whole blocks of MSG it folds. -/
theorem compress_blkcnt {s t : State} (h : exec .compress s = .next t) (he : t.status.err = false) :
    t.blkcnt.toNat = s.len.toNat / 128 := by
  rcases execCompress_cases s with ⟨_, hc⟩ | ⟨_, _, hc⟩ | ⟨_, _, hc⟩
  · cases hc.symm.trans h
    cases he
  · cases hc.symm.trans h
    cases he
  · cases hc.symm.trans h
    have hlt := s.len.isLt
    exact (BitVec.toNat_ofNat _ _).trans (Nat.mod_eq_of_lt (by omega))

/-- A DIGEST without error counts the blocks of the padded message; no LEN is so large that the count does not fit. -/
theorem digest_blkcnt {s t : State} (h : exec .digest s = .next t) (he : t.status.err = false) :
    t.blkcnt.toNat = (s.len.toNat + 16) / 128 + 1 := by
  rcases execDigest_cases s with ⟨_, hc⟩ | ⟨_, hc⟩
  · cases hc.symm.trans h
    cases he
  · cases hc.symm.trans h
    have hlt := s.len.isLt
    exact (BitVec.toNat_ofNat _ _).trans (Nat.mod_eq_of_lt (by unfold blockCount; omega))

/-- A command that completes with an error leaves BLKCNT (R236). -/
theorem exec_error_keeps_blkcnt {i : Instr} {s t : State} (h : exec i s = .next t) (he : t.status.err = true) :
    t.blkcnt = s.blkcnt := by
  rcases exec_completes i s with ⟨c, _, hc⟩ | ⟨u, _, hc⟩
  · cases hc.symm.trans h
    rfl
  · cases hc.symm.trans h
    cases he

/-- No other command writes BLKCNT. -/
theorem exec_other_keeps_blkcnt {i : Instr} {s t : State} (hc : i ≠ .compress) (hd : i ≠ .digest)
    (h : exec i s = .next t) : t.blkcnt = s.blkcnt := by
  cases i with
  | compress => exact absurd rfl hc
  | digest => exact absurd rfl hd
  | init => cases (execInit_eq s).symm.trans h; rfl
  | extract => cases (execExtract_eq s).symm.trans h; rfl
  | dump => cases (execDump_eq s).symm.trans h; rfl
  | read =>
    rcases execRead_cases s with ⟨_, hr⟩ | ⟨_, hr⟩
    · cases hr.symm.trans h; rfl
    · cases hr.symm.trans h; rfl

/-- Settles O40, by what COMPRESS and DIGEST leave in BLKCNT, and by the frame of every other command, every error and
every host write. -/
theorem blkcntCountsCompressions : Obligations.BlkcntCountsCompressions := by
  refine ⟨?commands, ?port, rfl⟩
  case commands =>
    intro i s t h
    refine ⟨?compress, ?digest, ?others⟩
    case compress => rintro rfl he; exact compress_blkcnt h he
    case digest => rintro rfl he; exact digest_blkcnt h he
    case others =>
      rintro (⟨hc, hd⟩ | he)
      · exact exec_other_keeps_blkcnt hc hd h
      · exact exec_error_keeps_blkcnt h he
  case port =>
    intro s v
    exact ⟨portWrite_keeps_blkcnt 0x0020 v s, fun hb => ⟨portWrite_blkcnt_idle v hb, portRead_blkcnt_idle hb⟩⟩

end Sys2Proof.Proofs.Registers
end

section
/-! PROOFS. The host port (20_memory.md R52 to R57): which transactions it answers with an error, what it answers while
BUSY = 1, and how the byte buffers stand in its words. -/

namespace Sys2Proof.Proofs.HostPort

open Sys2Proof Sys2Proof.Machine Sys2Proof.Proofs.Registers

/-! ### Transactions answered with an error -/

theorem portRead_misaligned {addr : Word} (s : State) (ha : addr.toNat % 8 ≠ 0) :
    portRead addr s = (⟨.slverr, none⟩, s) := if_pos ha

theorem portWrite_misaligned {addr : Word} (v : Word) (s : State) (ha : addr.toNat % 8 ≠ 0) :
    portWrite addr v s = (⟨.slverr, none⟩, s) := if_pos ha

/-- The map of R51 has no target exactly at the aligned addresses its table does not list. -/
theorem targetOf_eq_none_iff {n a : Nat} (h8 : a % 8 = 0) : targetOf n a = none ↔ ¬MappedAddress n a := by
  constructor
  · intro hn hm
    obtain ⟨r, hr, _⟩ := mapped_targetOf hm
    simp [hn] at hr
  · intro hm
    cases ht : targetOf n a with
    | none => rfl
    | some r => exact absurd (targetOf_mapped ht h8) hm

theorem portRead_unmapped {addr : Word} {s : State} (h8 : addr.toNat % 8 = 0)
    (hm : ¬MappedAddress s.msgBytes addr.toNat) : portRead addr s = (⟨.decerr, none⟩, s) := by
  simp [portRead, h8, (targetOf_eq_none_iff h8).2 hm]

theorem portWrite_unmapped {addr : Word} {s : State} (v : Word) (h8 : addr.toNat % 8 = 0)
    (hm : ¬MappedAddress s.msgBytes addr.toNat) : portWrite addr v s = (⟨.decerr, none⟩, s) := by
  simp [portWrite, h8, (targetOf_eq_none_iff h8).2 hm]

/-- A transaction answered SLVERR or DECERR changes nothing, the model's own fields included (R52, R55). -/
theorem transact_state_of_not_okay {t : Txn} {s : State} (h : (transact t s).1.resp ≠ .okay) :
    (transact t s).2 = s := by
  cases t with
  | read addr =>
    rcases portRead_cases addr s with ⟨_, hr⟩ | ⟨_, _, hr⟩ | ⟨_, _, _, _, _, hr⟩ | ⟨_, _, _, _, hr⟩ <;>
      simp [transact, hr] at h ⊢
  | write addr v =>
    rcases portWrite_cases addr v s with ⟨_, hw⟩ | ⟨_, _, hw⟩ | ⟨_, _, _, _, hw⟩ | ⟨_, _, _, _, hw⟩ <;>
      simp [transact, hw] at h ⊢

/-- Settles O42: the port looks at the alignment of an address before the map and before BUSY. -/
theorem misalignedTransactionsAnswerSlverr : Obligations.MisalignedTransactionsAnswerSlverr :=
  fun s _ v ha => ⟨portRead_misaligned s ha, portWrite_misaligned v s ha⟩

/-- Settles O43: the three unmapped ranges are outside the table of R51, and no error response comes with a change. -/
theorem unmappedTransactionsAnswerDecerr : Obligations.UnmappedTransactionsAnswerDecerr := by
  refine ⟨fun s t h => congrArg State.status (transact_state_of_not_okay h), ?_⟩
  intro s addr v h8 hrange
  have hm : ¬MappedAddress s.msgBytes addr.toNat := by
    rintro ⟨_, hlisted⟩
    omega
  exact ⟨portRead_unmapped h8 hm, portWrite_unmapped v h8 hm⟩

/-! ### Transactions while BUSY = 1 -/

/-- A read of one of R54's arbitrary values: a free word, and one draw counted. -/
theorem portRead_midUpdate {addr : Word} {s : State} {r : Target} (ha : addr.toNat % 8 = 0)
    (ht : targetOf s.msgBytes addr.toNat = some r) (hb : s.status.busy = true) (hr : midUpdate r = true) :
    portRead addr s = (⟨.okay, some (Config.busyRead s.draws)⟩, s.countDraw) := by
  simp [portRead, ha, ht, hb, hr]

/-- Only the target STATUS holds anything of STATUS. -/
theorem readTarget_setStatus (s : State) (f : Status) {r : Target} (hr : r ≠ .status) :
    readTarget (s.setStatus f) r = readTarget s r := by
  cases r with
  | status => exact absurd rfl hr
  | _ => rfl

/-- A write while BUSY = 1 to a target other than STATUS and CTRL is discarded and sets OVR (R54). -/
theorem writeBusy_discards (v : Word) (s : State) {r : Target} (hs : r ≠ .status) (hc : r ≠ .ctrl) :
    writeBusy v s r = s.setStatus (statusOverrun s.status) := by
  rcases writeBusy_cases v s r with ⟨h, _⟩ | ⟨h, _⟩ | ⟨_, _, h⟩
  · exact absurd h hs
  · exact absurd h hc
  · exact h

/-- Settles O50: the target of the mapped address decides each clause. A target no command is in the middle of updating
reads as in the idle state, whose map is the same; a write is `writeBusy` of the target. -/
theorem accessWhileBusy : Obligations.AccessWhileBusy := by
  intro s addr v hb hm
  obtain ⟨r, ht, hmid⟩ := mapped_targetOf hm
  obtain ⟨_, hstatus, hctrl⟩ := targetOf_control ht
  have hwrite : portWrite addr v s = (⟨.okay, none⟩, writeBusy v s r) := by
    rw [portWrite_of_target v hm.1 ht, if_pos hb]
  refine ⟨?readStable, ?readStatus, ?readMidUpdate, ?writeStatus, ?writeCtrl, ?writeOther⟩
  case readStable =>
    intro hn ha
    have hr : midUpdate r = false := Bool.eq_false_iff.2 (mt hmid.1 hn)
    have hidle := portRead_of_target (s := s.setStatus { s.status with busy := false }) hm.1 ht (.inl rfl)
    rw [readTarget_setStatus s _ (mt hstatus.1 ha)] at hidle
    exact ⟨readTarget s r, portRead_of_target hm.1 ht (.inr hr), congrArg Prod.fst hidle⟩
  case readStatus =>
    intro ha
    obtain rfl := hstatus.2 ha
    exact portRead_of_target hm.1 ht (.inr rfl)
  case readMidUpdate =>
    intro ha
    exact ⟨_, s.countDraw, portRead_midUpdate hm.1 ht hb (hmid.2 ha), rfl⟩
  case writeStatus =>
    intro ha
    obtain rfl := hstatus.2 ha
    exact hwrite
  case writeCtrl =>
    intro ha
    obtain rfl := hctrl.2 ha
    exact hwrite
  case writeOther =>
    intro hs hc
    rw [hwrite, writeBusy_discards v s (mt hstatus.1 hs) (mt hctrl.1 hc)]
    rfl

/-! ### The byte buffers in port words -/

theorem portWrite_idle_of_target {addr : Word} {s : State} {r : Target} (v : Word) (hb : s.status.busy = false)
    (ha : addr.toNat % 8 = 0) (ht : targetOf s.msgBytes addr.toNat = some r) :
    portWrite addr v s = (⟨.okay, none⟩, writeIdle v s r) := by
  simp [portWrite_of_target v ha ht, hb]

/-- The port at the word of MSG at 8k: MSG never reads an arbitrary value (R54). -/
theorem port_msgWord {s : State} {addr : Word} {k : Nat} (v : Word) (hb : s.status.busy = false)
    (ha : addr.toNat = 0x1000 + 8 * k) (hk : 8 * k < s.msgBytes) :
    portRead addr s = (⟨.okay, some (wordOfBytes fun j => messageByte s (8 * k + j))⟩, s) ∧
      portWrite addr v s = (⟨.okay, none⟩, s.setMsg (memWriteWord s.msg (8 * k) v)) := by
  have h8 : addr.toNat % 8 = 0 := by omega
  have ht : targetOf s.msgBytes addr.toNat = some (.msg (8 * k)) := by
    rw [targetOf_msg _ _ (by omega), ha, Nat.add_sub_cancel_left]
  exact ⟨portRead_of_target h8 ht (.inr rfl), portWrite_idle_of_target v hb h8 ht⟩

/-- The port at word k of RAW while BUSY = 0. -/
theorem port_rawWord {s : State} {addr : Word} {k : Nat} (v : Word) (hb : s.status.busy = false)
    (ha : addr.toNat = 0x0080 + 8 * k) (hk : k < 8) :
    portRead addr s = (⟨.okay, some (bufferWord s.raw k)⟩, s) ∧
      portWrite addr v s = (⟨.okay, none⟩, s.setRaw (bufferWrite s.raw k v)) := by
  have h8 : addr.toNat % 8 = 0 := by omega
  have hword : Fin.ofNat 8 ((addr.toNat - 0x0080) / 8) = ⟨k, hk⟩ := Fin.ext (by simp; omega)
  have ht : targetOf s.msgBytes addr.toNat = some (.raw ⟨k, hk⟩) := by rw [targetOf_raw _ _ (by omega), hword]
  exact ⟨portRead_of_target h8 ht (.inl hb), portWrite_idle_of_target v hb h8 ht⟩

/-- The port at word k of HEX while BUSY = 0, its last word 16 included. -/
theorem port_hexWord {s : State} {addr : Word} {k : Nat} (v : Word) (hb : s.status.busy = false)
    (ha : addr.toNat = 0x00C0 + 8 * k) (hk : k < 17) :
    portRead addr s = (⟨.okay, some (bufferWord s.hex k)⟩, s) ∧
      portWrite addr v s = (⟨.okay, none⟩, s.setHex (bufferWrite s.hex k v)) := by
  have h8 : addr.toNat % 8 = 0 := by omega
  have hword : Fin.ofNat 17 ((addr.toNat - 0x00C0) / 8) = ⟨k, hk⟩ := Fin.ext (by simp; omega)
  have ht : targetOf s.msgBytes addr.toNat = some (.hex ⟨k, hk⟩) := by rw [targetOf_hex _ _ (by omega), hword]
  exact ⟨portRead_of_target h8 ht (.inl hb), portWrite_idle_of_target v hb h8 ht⟩

/-- Byte j of port word k of a fixed buffer is its byte 8k + j (R56). -/
theorem extract_bufferWord {n : Nat} (b : Vector Byte n) (k j : Nat) (hj : j < 8) (hn : 8 * k + j < n) :
    (bufferWord b k).extractLsb' (56 - 8 * j) 8 = b[8 * k + j] := by
  rw [bufferWord, extract_wordOfBytes _ j hj, dif_pos hn]

/-- The places of a port word past the end of its buffer read as 0 (R57). -/
theorem extract_bufferWord_past_end {n : Nat} (b : Vector Byte n) (k j : Nat) (hj : j < 8) (hn : n ≤ 8 * k + j) :
    (bufferWord b k).extractLsb' (56 - 8 * j) 8 = 0 := by
  rw [bufferWord, extract_wordOfBytes _ j hj, dif_neg (by omega)]

/-- A port write of word k leaves its byte j at 8k + j of a fixed buffer (R56). -/
theorem bufferWrite_get_word {n : Nat} (b : Vector Byte n) (k j : Nat) (v : Word) (hj : j < 8) (hn : 8 * k + j < n) :
    (bufferWrite b k v)[8 * k + j] = v.extractLsb' (56 - 8 * j) 8 := by
  have hdiv : (8 * k + j) / 8 = k := by omega
  have hmod : (8 * k + j) % 8 = j := by omega
  rw [bufferWrite_get, if_pos hdiv, hmod, byteOfWord]

/-- A port write of word k leaves the bytes of the other words of a fixed buffer. -/
theorem bufferWrite_get_other {n : Nat} (b : Vector Byte n) (k i : Nat) (v : Word) (hi : i < n) (hne : i / 8 ≠ k) :
    (bufferWrite b k v)[i] = b[i] := by
  rw [bufferWrite_get, if_neg hne]

/-- A port write to the word of MSG at 8k stores its byte j in MSG[8k + j] (R56). -/
theorem messageByte_setMsg_same_word (s : State) (k j : Nat) (v : Word) (hj : j < 8) :
    messageByte (s.setMsg (memWriteWord s.msg (8 * k) v)) (8 * k + j) = v.extractLsb' (56 - 8 * j) 8 := by
  rw [messageByte_setMsg_word, if_pos (by omega), Nat.add_sub_cancel_left, byteOfWord]

theorem messageByte_setMsg_other_word (s : State) (k i : Nat) (v : Word) (hne : i / 8 ≠ k) :
    messageByte (s.setMsg (memWriteWord s.msg (8 * k) v)) i = messageByte s i := by
  rw [messageByte_setMsg_word, if_neg (by omega)]

/-- Settles O45: the map gives word k of each buffer its target, and the target's word and write are read byte by
byte. -/
theorem bufferWordsPackBigEndian : Obligations.BufferWordsPackBigEndian := by
  refine ⟨?msg, fun s k v hb => ⟨?raw, ?hex⟩⟩
  case msg =>
    intro s addr v k hb ha hk
    obtain ⟨hread, hwrite⟩ := port_msgWord v hb ha hk
    exact ⟨_, _, hread, hwrite, rfl,
      fun j hj => ⟨extract_wordOfBytes _ j hj, messageByte_setMsg_same_word s k j v hj⟩,
      fun i hne => messageByte_setMsg_other_word s k i v hne⟩
  case raw =>
    intro hk
    have ha : (BitVec.ofNat 64 (0x0080 + 8 * k)).toNat = 0x0080 + 8 * k := Nat.mod_eq_of_lt (by omega)
    obtain ⟨hread, hwrite⟩ := port_rawWord v hb ha hk
    exact ⟨_, _, hread, hwrite, rfl,
      fun j hj => ⟨extract_bufferWord s.raw k j hj _, bufferWrite_get_word s.raw k j v hj _⟩,
      fun i hi hne => bufferWrite_get_other s.raw k i v hi hne⟩
  case hex =>
    intro hk
    have ha : (BitVec.ofNat 64 (0x00C0 + 8 * k)).toNat = 0x00C0 + 8 * k := Nat.mod_eq_of_lt (by omega)
    obtain ⟨hread, hwrite⟩ := port_hexWord v hb ha (by omega)
    exact ⟨_, _, hread, hwrite, rfl,
      fun j hj => ⟨extract_bufferWord s.hex k j hj _, bufferWrite_get_word s.hex k j v hj _⟩,
      fun i hi hne => bufferWrite_get_other s.hex k i v hi hne⟩

/-! ### The last word of HEX -/

/-- A word whose bytes below the top one are 0 is 0 in its low 56 bits. -/
theorem extract_low_eq_zero {w : Word} (h : ∀ j < 8, 0 < j → w.extractLsb' (56 - 8 * j) 8 = 0) :
    w.extractLsb' 0 56 = 0 := by
  apply BitVec.eq_of_getLsbD_eq
  intro i hi
  have hbit := congrArg (fun b => b.getLsbD (i % 8)) (h (7 - i / 8) (by omega) (by omega))
  have hplace : 56 - 8 * (7 - i / 8) + i % 8 = i := by omega
  have hlt : i % 8 < 8 := by omega
  simpa [BitVec.getLsbD_extractLsb', hplace, hlt, hi] using hbit

/-- A port write of HEX word 16 stores its top byte in HEX[128] and nothing else (R57). -/
theorem bufferWrite_last_hex (t : Vector Byte 129) (v : Word) :
    bufferWrite t 16 v = t.set 128 (v.extractLsb' 56 8) := by
  apply Vector.ext
  intro i hi
  by_cases hlast : i = 128
  · subst hlast
    rw [bufferWrite_get, if_pos rfl, Vector.getElem_set_self, byteOfWord]
  · rw [bufferWrite_get_other t 16 i v hi (by omega), Vector.getElem_set_ne _ _ (Ne.symm hlast)]

/-- Settles O46: 0x0140 is word 16 of HEX, which has one byte inside the buffer and seven past its end. -/
theorem lastHexWordHoldsOneByte : Obligations.LastHexWordHoldsOneByte := by
  intro s v hb
  obtain ⟨hread, hwrite⟩ := port_hexWord (addr := 0x0140) (k := 16) v hb rfl (by omega)
  refine ⟨_, _, hread, ?top, ?low, hwrite, ?write⟩
  case top => exact extract_bufferWord s.hex 16 0 (by omega) (by omega)
  case low => exact extract_low_eq_zero fun j hj hpos => extract_bufferWord_past_end s.hex 16 j hj (by omega)
  case write => exact congrArg s.setHex (bufferWrite_last_hex s.hex v)

end Sys2Proof.Proofs.HostPort
end

section
/-! PROOFS. The encoding (30_encoding.md): the command word and its two fields (R80 to R84), the illegal words (R83),
and a script as the list of its port transactions (R89). -/

namespace Sys2Proof.Proofs.Encoding

open Sys2Proof Sys2Proof.Machine

/-! ### The opcode map -/

/-- The map of R82 sends each opcode to its own command and no other number to a command. -/
theorem commandOf_eq_some_iff (n : Nat) (i : Instr) : commandOf n = some i ↔ n = (opcodeOf i).toNat := by
  constructor
  · intro h
    unfold commandOf at h
    split at h <;> cases h <;> rfl
  · rintro rfl
    cases i <;> rfl

/-- The numbers R82 assigns to no command. -/
theorem commandOf_eq_none_iff (n : Nat) : commandOf n = none ↔ n = 0 ∨ 7 ≤ n := by
  match n with
  | 0 | m + 7 => simp [commandOf]
  | 1 | 2 | 3 | 4 | 5 | 6 => simp [commandOf]

/-! ### The command word and its fields -/

/-- A word is its reserved field above its opcode field (R80). -/
theorem word_eq_rsvField_append_opField (w : Word) : w = rsvField w ++ opField w := by
  have hjoin : rsvField w ++ opField w = w.extractLsb' 0 (56 + 8) :=
    BitVec.extractLsb'_append_extractLsb'_eq_extractLsb' rfl
  rw [hjoin, BitVec.extractLsb'_eq_self]

theorem rsvField_encode (i : Instr) : rsvField (encode i) = 0 := by cases i <;> rfl

theorem opField_encode (i : Instr) : opField (encode i) = opcodeOf i := by cases i <;> rfl

/-- The word of a command, by its fields: RSV = 0 and OP the command's opcode (R82). -/
theorem eq_encode_iff (w : Word) (i : Instr) : w = encode i ↔ rsvField w = 0 ∧ opField w = opcodeOf i := by
  constructor
  · rintro rfl
    exact ⟨rsvField_encode i, opField_encode i⟩
  · rintro ⟨hrsv, hop⟩
    rw [word_eq_rsvField_append_opField w, hrsv, hop, encode]

/-! ### The decoder -/

/-- All the decoder can answer (R84). -/
theorem decode_cases (w : Word) :
    (rsvField w ≠ 0 ∧ decode w = .illegal .reservedBits) ∨
    (rsvField w = 0 ∧ commandOf (opField w).toNat = none ∧ decode w = .illegal .unassignedOpcode) ∨
    (∃ i, rsvField w = 0 ∧ commandOf (opField w).toNat = some i ∧ decode w = .command i) := by
  by_cases hrsv : rsvField w = 0
  · cases hop : commandOf (opField w).toNat with
    | none => exact .inr (.inl ⟨hrsv, rfl, by rw [decode, if_neg (· hrsv), hop]⟩)
    | some i => exact .inr (.inr ⟨i, hrsv, rfl, by rw [decode, if_neg (· hrsv), hop]⟩)
  · exact .inl ⟨hrsv, if_pos hrsv⟩

theorem decode_eq_command_iff (w : Word) (i : Instr) :
    decode w = .command i ↔ rsvField w = 0 ∧ commandOf (opField w).toNat = some i := by
  rcases decode_cases w with ⟨hrsv, h⟩ | ⟨_, hop, h⟩ | ⟨j, hrsv, hop, h⟩
  · exact iff_of_false (by simp [h]) fun hc => hrsv hc.1
  · simp [h, hop]
  · simp [h, hrsv, hop]

theorem decode_illegal_iff (w : Word) :
    (∃ why, decode w = .illegal why) ↔ rsvField w ≠ 0 ∨ commandOf (opField w).toNat = none := by
  rcases decode_cases w with ⟨hrsv, h⟩ | ⟨_, hop, h⟩ | ⟨j, hrsv, hop, h⟩
  · exact iff_of_true ⟨_, h⟩ (.inl hrsv)
  · exact iff_of_true ⟨_, h⟩ (.inr hop)
  · simp [h, hrsv, hop]

/-- Decoding and encoding agree: a word is read as a command exactly where it is the command's word. -/
theorem decode_eq_command_iff_eq_encode (w : Word) (i : Instr) : decode w = .command i ↔ w = encode i := by
  rw [decode_eq_command_iff, eq_encode_iff, commandOf_eq_some_iff, BitVec.toNat_inj]

/-- Settles O1: RSV = 0 and the opcode map decide both sides of the round trip; the six words are evaluated. -/
theorem decodeReadsExactlyTheAssignedWords : Obligations.DecodeReadsExactlyTheAssignedWords :=
  ⟨decode_eq_command_iff_eq_encode, rfl, rfl, rfl, rfl, rfl, rfl⟩

/-! ### Illegal words -/

/-- The illegal words of R83, by the fields of the word. -/
theorem decode_illegal_iff_fields (w : Word) :
    (∃ why, decode w = .illegal why) ↔ rsvField w ≠ 0 ∨ opField w = 0 ∨ 7 ≤ (opField w).toNat := by
  have hzero : (opField w).toNat = 0 ↔ opField w = 0 := BitVec.toNat_inj (y := 0)
  rw [decode_illegal_iff, commandOf_eq_none_iff, hzero]

/-- The engine's turn on an illegal word is a completion with ILLEGAL_CMD of the state as it was. -/
theorem engineTurn_of_illegal {s : State} (hb : s.status.busy = true) (hw : ∃ why, decode s.pend = .illegal why) :
    engineTurn s = .next (complete .illegalCmd s) := by
  obtain ⟨why, hw⟩ := hw
  rcases engineTurn_cases s with ⟨hi, _⟩ | ⟨_, _, h⟩ | ⟨i, _, hc, _⟩
  · simp [hi] at hb
  · exact h
  · simp [hw] at hc

/-- Settles O2: the two fields decide what is illegal, and a completion with an error writes STATUS alone. -/
theorem illegalWordsRaiseIllegalCmd : Obligations.IllegalWordsRaiseIllegalCmd :=
  ⟨decode_illegal_iff_fields, fun s hb hw =>
    ⟨_, engineTurn_of_illegal hb hw, completedWith_complete .illegalCmd rfl, onlyStatusChanged_complete .illegalCmd s⟩⟩

/-! ### Scripts -/

@[simp] theorem portTransactions_nil : portTransactions [] = [] := rfl

@[simp] theorem portTransactions_host (t : Txn) (es : List Event) :
    portTransactions (.host t :: es) = t :: portTransactions es := rfl

@[simp] theorem portTransactions_engine (es : List Event) :
    portTransactions (.engine :: es) = portTransactions es := rfl

@[simp] theorem portTransactions_rst (es : List Event) : portTransactions (.rst :: es) = portTransactions es := rfl

theorem portTransactions_append (es fs : List Event) :
    portTransactions (es ++ fs) = portTransactions es ++ portTransactions fs := List.filterMap_append

/-- The port transactions of a list of events are those of its host events, and only those. -/
theorem mem_portTransactions_iff (es : List Event) (t : Txn) : t ∈ portTransactions es ↔ .host t ∈ es := by
  induction es with
  | nil => simp
  | cons e rest ih =>
    cases e with
    | host u => simp [ih]
    | engine => simp [ih]
    | rst => simp [ih]

/-- Settles O59: `cmd` has one event whatever the number of polls, and the transactions of a script are its host
events in their order. -/
theorem scriptIsItsPortTransactions : Obligations.ScriptIsItsPortTransactions :=
  ⟨fun _ => rfl, portTransactions_append, mem_portTransactions_iff⟩

end Sys2Proof.Proofs.Encoding
end

section
/-! PROOFS. The word functions Ch and Maj (40_functions.md R105, R106), and the constant tables as the first 64 bits
of the fractional parts of roots of primes (R110 to R112). -/

namespace Sys2Proof.Proofs.Functions

open Sys2Proof Sys2Proof.Machine

/-! ### Ch and Maj, bit by bit -/

theorem choose_getLsbD (x y z : Word) (i : Nat) (hi : i < 64) :
    (choose x y z).getLsbD i = if x.getLsbD i then y.getLsbD i else z.getLsbD i := by
  have hformula : (choose x y z).getLsbD i = ((x.getLsbD i && y.getLsbD i) ^^ (!x.getLsbD i && z.getLsbD i)) := by
    simp [choose, hi]
  rw [hformula]
  cases x.getLsbD i <;> simp

theorem majority_getLsbD (x y z : Word) (i : Nat) :
    (majority x y z).getLsbD i =
      ((x.getLsbD i && y.getLsbD i) ^^ (x.getLsbD i && z.getLsbD i) ^^ (y.getLsbD i && z.getLsbD i)) := by
  simp [majority]

/-- The formula of R106 on single bits is true where at least two of the three are. -/
theorem xor_and_eq_true_iff_two_le :
    ∀ a b c : Bool, ((a && b) ^^ (a && c) ^^ (b && c)) = true ↔ 2 ≤ a.toNat + b.toNat + c.toNat := by decide

/-- Settles O20: both functions act on each bit position alone, and the formulas are the model's definitions. -/
theorem chooseAndMajorityActBitwise : Obligations.ChooseAndMajorityActBitwise := by
  intro x y z i hi
  refine ⟨choose_getLsbD x y z i hi, ?majority, rfl, rfl⟩
  rw [majority_getLsbD]
  exact xor_and_eq_true_iff_two_le _ _ _

/-! ### The first primes -/

/-- The numbers below `n` that satisfy `p`, in increasing order, are `Nat.nth p 0`, `Nat.nth p 1`, and so on. -/
theorem nth_eq_filter_range_getElem (p : Nat → Prop) [DecidablePred p] (n i : Nat)
    (hi : i < ((List.range n).filter p).length) : Nat.nth p i = ((List.range n).filter p)[i] := by
  induction n with
  | zero => simp at hi
  | succ n ih =>
    by_cases hlt : i < ((List.range n).filter p).length
    · simp [List.range_succ, List.getElem_append_left, hlt, ih hlt]
    · by_cases hp : p n
      · have hsucc : i < ((List.range n).filter p).length + 1 := by simpa [List.range_succ, hp] using hi
        have hlen : i = ((List.range n).filter p).length := by omega
        have hcount : i = Nat.count p n := by rw [hlen, Nat.count, List.countP_eq_length_filter]
        have hlast : ((List.range (n + 1)).filter p)[i] = n := by
          simp [List.range_succ, hp, List.getElem_append_right (Nat.le_of_not_lt hlt)]
        rw [hlast, hcount, Nat.nth_count hp]
      · exact absurd (by simpa [List.range_succ, hp] using hi) hlt

/-- Trial division by the numbers below `d`. -/
abbrev PassesTrialDivision (d n : Nat) : Prop := 2 ≤ n ∧ ∀ m < d, 2 ≤ m → m < n → ¬m ∣ n

/-- Trial division below `d` decides the primes below `d ^ 2`: a composite number has a divisor up to its root. -/
theorem passesTrialDivision_iff_prime {d n : Nat} (hn : n < d ^ 2) : PassesTrialDivision d n ↔ n.Prime := by
  constructor
  · rintro ⟨htwo, htrial⟩
    refine Nat.prime_def_le_sqrt.2 ⟨htwo, fun m hm hle => htrial m ?_ hm ?_⟩
    · exact hle.trans_lt (Nat.sqrt_lt'.2 hn)
    · exact hle.trans_lt (Nat.sqrt_lt_self htwo)
  · intro hp
    obtain ⟨htwo, hdvd⟩ := Nat.prime_def_lt'.1 hp
    exact ⟨htwo, fun m _ => hdvd m⟩

/-- The primes from 2 to 409. -/
def firstPrimes : List Nat :=
  [2, 3, 5, 7, 11, 13, 17, 19, 23, 29, 31, 37, 41, 43, 47, 53, 59, 61, 67, 71, 73, 79, 83, 89, 97, 101, 103, 107, 109,
   113, 127, 131, 137, 139, 149, 151, 157, 163, 167, 173, 179, 181, 191, 193, 197, 199, 211, 223, 227, 229, 233, 239,
   241, 251, 257, 263, 269, 271, 277, 281, 283, 293, 307, 311, 313, 317, 331, 337, 347, 349, 353, 359, 367, 373, 379,
   383, 389, 397, 401, 409]

theorem firstPrimes_length : firstPrimes.length = 80 := rfl

theorem filter_trialDivision_eq_firstPrimes :
    (List.range 410).filter (PassesTrialDivision 21) = firstPrimes := by decide

theorem filter_prime_eq_firstPrimes : (List.range 410).filter Nat.Prime = firstPrimes := by
  rw [← filter_trialDivision_eq_firstPrimes]
  refine List.filter_congr fun n hn => ?_
  have hlt : n < 21 ^ 2 := (List.mem_range.1 hn).trans (by decide)
  exact decide_eq_decide.2 (passesTrialDivision_iff_prime hlt).symm

theorem nth_prime_eq_firstPrimes_getElem (i : Nat) (hi : i < firstPrimes.length) :
    Nat.nth Nat.Prime i = firstPrimes[i] := by
  have h := nth_eq_filter_range_getElem Nat.Prime 410 i
  simp only [filter_prime_eq_firstPrimes] at h
  exact h hi

/-! ### The tables as fractional parts of roots -/

/-- `w` is the first 64 bits of the fractional part of the `k`-th root of `p`: with some integer part `q` before it,
it is that root in units of 2^-64, rounded down. (The integer part of every root R112 takes is below 8.) -/
abbrev IsRootFraction (k p : Nat) (w : Word) : Prop :=
  ∃ q < 8, (q * 2 ^ 64 + w.toNat) ^ k ≤ p * 2 ^ (64 * k) ∧ p * 2 ^ (64 * k) < (q * 2 ^ 64 + w.toNat + 1) ^ k

theorem IsRootFraction.exists_root {k p : Nat} {w : Word} (h : IsRootFraction k p w) :
    ∃ r : Nat, r ^ k ≤ p * 2 ^ (64 * k) ∧ p * 2 ^ (64 * k) < (r + 1) ^ k ∧ w = BitVec.ofNat 64 r := by
  obtain ⟨q, -, hle, hlt⟩ := h
  refine ⟨q * 2 ^ 64 + w.toNat, hle, hlt, BitVec.eq_of_toNat_eq ?_⟩
  rw [BitVec.toNat_ofNat, Nat.mul_add_mod_self_right, Nat.mod_eq_of_lt w.isLt]

/-- The words of IV, one after another, belong to the square roots of the first 8 primes. -/
theorem initVector_isRootFraction : List.Forall₂ (IsRootFraction 2) (firstPrimes.take 8) initVector.toList := by
  decide

/-- The words of K, one after another, belong to the cube roots of the first 80 primes. -/
theorem roundConstants_isRootFraction : List.Forall₂ (IsRootFraction 3) firstPrimes roundConstants := by
  decide

theorem initVector_getElem_isRootFraction (i : Nat) (hi : i < 8) :
    IsRootFraction 2 (Nat.nth Nat.Prime i) initVector[i] := by
  have hprime : i < firstPrimes.length := by rw [firstPrimes_length]; omega
  rw [nth_prime_eq_firstPrimes_getElem i hprime]
  simpa using initVector_isRootFraction.get (i := i) (by simp [hi, hprime]) (by simp [hi])

theorem roundConstants_getElem_isRootFraction (t : Nat) (ht : t < roundConstants.length) :
    IsRootFraction 3 (Nat.nth Nat.Prime t) roundConstants[t] := by
  have hprime : t < firstPrimes.length := by rwa [roundConstants_isRootFraction.length_eq]
  rw [nth_prime_eq_firstPrimes_getElem t hprime]
  exact roundConstants_isRootFraction.get hprime ht

/-- Settles O22: with the primes enumerated, each word of the tables brackets its root. -/
theorem constantTablesAreRootsOfPrimes : Obligations.ConstantTablesAreRootsOfPrimes := by
  refine ⟨roundConstants_length, ?iv, ?k⟩
  case iv => exact fun i hi => (initVector_getElem_isRootFraction i hi).exists_root
  case k =>
    intro t ht
    obtain ⟨r, hle, hlt, hw⟩ := (roundConstants_getElem_isRootFraction t ht).exists_root
    exact ⟨r, hle, hlt, by rw [← hw, List.getElem?_eq_getElem ht]⟩

end Sys2Proof.Proofs.Functions
end

section
/-! PROOFS. Padding (41_padding.md R130, R131): the parts of Pad(m), and the number of zero bytes as the least that
fits. -/

namespace Sys2Proof.Proofs.Padding

open Sys2Proof Sys2Proof.Machine

/-- Pad(m) by its four parts (R130). -/
theorem pad_eq (m : List Byte) :
    pad m = m ++ [0x80] ++ List.replicate (zeroCount m.length) 0x00 ++ bigEndian 16 (8 * m.length) := by rw [pad]

theorem zeroCount_lt (len : Nat) : zeroCount len < 128 := by
  unfold zeroCount
  omega

/-- The numbers of zero bytes that leave room for exactly the length field are, modulo 128, that of R131. -/
theorem mod_eq_112_iff_mod_eq_zeroCount (len z : Nat) : (len + 1 + z) % 128 = 112 ↔ z % 128 = zeroCount len := by
  unfold zeroCount
  omega

theorem zeroCount_mod_eq_112 (len : Nat) : (len + 1 + zeroCount len) % 128 = 112 :=
  (mod_eq_112_iff_mod_eq_zeroCount len _).2 (Nat.mod_eq_of_lt (zeroCount_lt len))

/-- No smaller number of zero bytes does: below 128 each number is its own residue. -/
theorem mod_ne_112_of_lt_zeroCount {len y : Nat} (hy : y < zeroCount len) : (len + 1 + y) % 128 ≠ 112 := by
  have hres : y % 128 = y := Nat.mod_eq_of_lt (hy.trans (zeroCount_lt len))
  rw [Ne, mod_eq_112_iff_mod_eq_zeroCount, hres]
  exact hy.ne

/-- Settles O23: the zero count of R131 is the least that fits, and the field holds every bit length below 2^128. -/
theorem paddingAppendsMarkZerosAndBitLength : Obligations.PaddingAppendsMarkZerosAndBitLength := by
  intro m hfits
  refine ⟨zeroCount m.length, bigEndian 16 (8 * m.length), pad_eq m, zeroCount_mod_eq_112 _,
    fun _ => mod_ne_112_of_lt_zeroCount, rfl, bigEndian_length 16 _, ?field⟩
  case field =>
    have hbytes : (256 : Nat) ^ 16 = 2 ^ 128 := by norm_num
    exact fromBigEndian_bigEndian 16 _ (by rwa [hbytes])

end Sys2Proof.Proofs.Padding
end

section
/-! PROOFS. The compression function (42_compression.md R151 to R154): what stands at each place of the message
schedule, and the working register round by round. -/

namespace Sys2Proof.Proofs.Compression

open Sys2Proof Sys2Proof.Machine

/-! ### The message schedule -/

/-- The words a schedule is extended from are its oldest, and stand last. -/
theorem suffix_extendSchedule (n : Nat) (l : List Word) : l <:+ extendSchedule n l := by
  have h := List.drop_suffix n (extendSchedule n l)
  rwa [extendSchedule_drop] at h

/-- W[0 .. n + 15] of a block, newest first: the words that `nextScheduleWord` makes W[n + 16] from. -/
def wordsBefore (b : List Byte) (n : Nat) : List Word := extendSchedule n (blockWords b).reverse

theorem wordsBefore_length (b : List Byte) (n : Nat) : (wordsBefore b n).length = n + 16 := by
  simp [wordsBefore, extendSchedule_length]

theorem wordsBefore_zero (b : List Byte) : wordsBefore b 0 = (blockWords b).reverse := rfl

theorem wordsBefore_succ (b : List Byte) (n : Nat) :
    wordsBefore b (n + 1) = nextScheduleWord (wordsBefore b n) :: wordsBefore b n := extendSchedule_succ n _

/-- The schedule is the words before W[80], oldest first. -/
theorem schedule_eq_reverse_wordsBefore (b : List Byte) : schedule b = (wordsBefore b 64).reverse := by
  rw [schedule, wordsBefore]

theorem schedule_length (b : List Byte) : (schedule b).length = 80 := by
  rw [schedule_eq_reverse_wordsBefore, List.length_reverse, wordsBefore_length]

/-- The schedule begins with the words made so far: a later word changes no earlier one. -/
theorem reverse_wordsBefore_prefix_schedule (b : List Byte) {n : Nat} (hn : n ≤ 64) :
    (wordsBefore b n).reverse <+: schedule b := by
  rw [schedule_eq_reverse_wordsBefore, List.reverse_prefix]
  have hsplit : wordsBefore b 64 = extendSchedule (64 - n) (wordsBefore b n) := by
    rw [wordsBefore, wordsBefore, ← extendSchedule_add, Nat.sub_add_cancel hn]
  rw [hsplit]
  exact suffix_extendSchedule _ _

theorem schedule_getElem?_of_lt_16 (b : List Byte) {i : Nat} (hi : i < 16) :
    (schedule b)[i]? = (blockWords b)[i]? := by
  have hprefix := reverse_wordsBefore_prefix_schedule b (n := 0) (by omega)
  rw [wordsBefore_zero, List.reverse_reverse] at hprefix
  exact (List.prefix_iff_getElem?.1 hprefix i (by simpa using hi)).trans (List.getElem?_eq_getElem _).symm

/-- The k-th newest word before W[n + 16] is W[n + 15 - k]. -/
theorem schedule_getElem?_eq_wordsBefore_getD (b : List Byte) {n k : Nat} (hn : n ≤ 64) (hk : k < n + 16) :
    (schedule b)[n + 15 - k]? = some ((wordsBefore b n).getD k 0) := by
  have hlen := wordsBefore_length b n
  have hplace : n + 15 - k < (wordsBefore b n).reverse.length := by rw [List.length_reverse]; omega
  have hidx : (wordsBefore b n).length - 1 - (n + 15 - k) = k := by omega
  rw [List.prefix_iff_getElem?.1 (reverse_wordsBefore_prefix_schedule b hn) _ hplace, List.getElem_reverse,
    List.getD_eq_getElem _ _ (by omega)]
  simp only [hidx]

/-- W[n + 16] is made from the words before it. -/
theorem schedule_getElem?_eq_nextScheduleWord (b : List Byte) {n : Nat} (hn : n < 64) :
    (schedule b)[n + 16]? = some (nextScheduleWord (wordsBefore b n)) := by
  have h := schedule_getElem?_eq_wordsBefore_getD b (n := n + 1) (k := 0) hn (by omega)
  rwa [wordsBefore_succ] at h

/-- Settles O17: the block's words begin the schedule, and each later word is made from those at fixed distances before
it. -/
theorem messageScheduleFollowsItsRecurrence : Obligations.MessageScheduleFollowsItsRecurrence := by
  intro b
  refine ⟨schedule_length b, ?blockWords, ?recurrence⟩
  case blockWords =>
    intro i hi
    rw [schedule_getElem?_of_lt_16 b hi]
    simp [blockWords, hi]
  case recurrence =>
    intro t h16 h80
    obtain ⟨n, rfl⟩ := Nat.exists_eq_add_of_le' h16
    have hpast (k : Nat) (hk : k < n + 16) := schedule_getElem?_eq_wordsBefore_getD b (n := n) (by omega) hk
    exact ⟨_, _, _, _, hpast 1 (by omega), hpast 6 (by omega), hpast 14 (by omega), hpast 15 (by omega),
      schedule_getElem?_eq_nextScheduleWord b (by omega)⟩

/-! ### The rounds -/

theorem roundConstants_zip_schedule_length (b : List Byte) : (roundConstants.zip (schedule b)).length = 80 := by
  rw [List.length_zip, roundConstants_length, schedule_length, Nat.min_self]

/-- The working register of F(Hin, B) after the first `t` rounds. -/
def workAfter (h : Chain) (b : List Byte) (t : Nat) : Work :=
  runRounds ((roundConstants.zip (schedule b)).take t) (loadWork h)

theorem workAfter_zero (h : Chain) (b : List Byte) : workAfter h b 0 = loadWork h := rfl

/-- Round t reads the register the rounds before it left, K[t] and W[t] (R152). -/
theorem workAfter_succ (h : Chain) (b : List Byte) {t : Nat} {k w : Word} (hk : roundConstants[t]? = some k)
    (hw : (schedule b)[t]? = some w) : workAfter h b (t + 1) = roundStep (workAfter h b t) k w := by
  have hpair : (roundConstants.zip (schedule b))[t]? = some (k, w) := List.getElem?_zip_eq_some.2 ⟨hk, hw⟩
  rw [workAfter, List.take_add_one, hpair, runRounds_append]
  rfl

/-- F adds the register the 80 rounds left onto the input State (R154). -/
theorem compressBlock_eq_feedForward (h : Chain) (b : List Byte) :
    compressBlock h b = feedForward h (workAfter h b 80) := by
  rw [compressBlock, workAfter, List.take_of_length_le (roundConstants_zip_schedule_length b).le]

/-- Settles O18: the register after t rounds is the trace the statement asks for. -/
theorem compressionRunsEightyRounds : Obligations.CompressionRunsEightyRounds := by
  intro h b
  refine ⟨workAfter h b, workAfter_zero h b, ?rounds, compressBlock_eq_feedForward h b⟩
  case rounds =>
    intro t ht
    have hk := List.getElem?_eq_getElem (ht.trans_eq roundConstants_length.symm)
    have hw := List.getElem?_eq_getElem (ht.trans_eq (schedule_length b).symm)
    exact ⟨_, _, _, _, hk, hw, rfl, rfl, workAfter_succ h b hk hw⟩

end Sys2Proof.Proofs.Compression
end

section
/-! PROOFS. INIT and COMPRESS (42_compression.md R160, R165): what each leaves, and its frame. -/

namespace Sys2Proof.Proofs.ChainCommands

open Sys2Proof Sys2Proof.Machine

/-- Settles O14, by the state INIT completes from. -/
theorem initLoadsTheInitializationVector : Obligations.InitLoadsTheInitializationVector := by
  refine ⟨rfl, fun s => ⟨_, execInit_eq s, rfl, ?completed, ?frame, rfl, rfl, rfl⟩⟩
  case completed => exact completedWith_complete .none (State.setH_status s initVector)
  case frame => exact commandFrame_complete .none (differs_setH s initVector)

/-- COMPRESS of a LEN inside the buffer that is a multiple of 128 folds the blocks of MSG. -/
theorem exec_compress_of_whole {s : State} (hfits : s.len.toNat ≤ s.msgBytes) (hwhole : s.len.toNat % 128 = 0) :
    exec .compress s = .next (complete .none
      ((s.setH (compressBlocks s.h (messageBlocks s (s.len.toNat / 128)))).setBlkcnt
        (BitVec.ofNat 64 (s.len.toNat / 128)))) := by
  rcases execCompress_cases s with ⟨hrange, _⟩ | ⟨_, halign, _⟩ | ⟨_, _, h⟩
  · omega
  · exact absurd hwhole halign
  · exact h

theorem exec_compress_of_not_whole {s : State} (hfits : s.len.toNat ≤ s.msgBytes) (hpart : s.len.toNat % 128 ≠ 0) :
    exec .compress s = .next (complete .lenAlign s) := by
  rcases execCompress_cases s with ⟨hrange, _⟩ | ⟨_, _, h⟩ | ⟨_, hwhole, _⟩
  · omega
  · exact h
  · exact absurd hwhole hpart

/-- Settles O15, by the three cases of LEN. -/
theorem compressFoldsWholeBlocks : Obligations.CompressFoldsWholeBlocks := by
  refine ⟨rfl, fun s => ⟨?folds, ?range, ?align⟩⟩
  case folds =>
    intro hfits hwhole
    have hexec := exec_compress_of_whole hfits hwhole
    exact ⟨_, hexec, rfl, Registers.compress_blkcnt hexec rfl, completedWith_complete .none rfl,
      commandFrame_complete .none (differs_setH_setBlkcnt s _ _), rfl, rfl⟩
  case range =>
    intro hrange
    exact ⟨_, Registers.exec_of_len_out_of_range (.inl rfl) hrange, completedWith_complete .lenRange rfl,
      onlyStatusChanged_complete .lenRange s⟩
  case align =>
    intro hfits hpart
    exact ⟨_, exec_compress_of_not_whole hfits hpart, completedWith_complete .lenAlign rfl,
      onlyStatusChanged_complete .lenAlign s⟩

end Sys2Proof.Proofs.ChainCommands
end

section
/-! PROOFS. DIGEST and EXTRACT (43_digest.md R182, R186): the bytes of RAW as those of H, and what each command leaves. -/

namespace Sys2Proof.Proofs.DigestCommands

open Sys2Proof Sys2Proof.Machine

/-- Byte 8k + j of Ser(H) as bits of H[k] (R180). -/
theorem serialise_getElem_eq_extract (h : Chain) {k j : Nat} (hk : k < 8) (hj : j < 8) :
    (serialise h)[8 * k + j] = h[k].extractLsb' (56 - 8 * j) 8 := by
  rw [serialise_get h k j hk hj, byteOfWord]

/-- DIGEST of a LEN inside the buffer leaves the chain of the padded message in H and its digest in RAW. -/
theorem exec_digest_of_fits {s : State} (hfits : s.len.toNat ≤ s.msgBytes) :
    exec .digest s = .next (complete .none
      (((s.setH (compressBlocks initVector (blocksOf (pad (messageOf s))))).setRaw
        (digestOf (messageOf s))).setBlkcnt (BitVec.ofNat 64 (blockCount s.len.toNat)))) := by
  rcases execDigest_cases s with ⟨hrange, _⟩ | ⟨_, h⟩
  · omega
  · exact h

/-- Settles O26, by the two cases of LEN; RAW is the serialisation of the chain that stays in H. -/
theorem digestHashesTheMessage : Obligations.DigestHashesTheMessage := by
  refine ⟨rfl, fun s => ⟨?hashes, ?range⟩⟩
  case hashes =>
    intro hfits
    have hexec := exec_digest_of_fits hfits
    exact ⟨_, hexec, rfl, fun _ _ hk hj => serialise_getElem_eq_extract _ hk hj, Registers.digest_blkcnt hexec rfl,
      completedWith_complete .none rfl, commandFrame_complete .none (differs_setH_setRaw_setBlkcnt s _ _ _), rfl⟩
  case range =>
    intro hrange
    exact ⟨_, Registers.exec_of_len_out_of_range (.inr rfl) hrange, completedWith_complete .lenRange rfl,
      onlyStatusChanged_complete .lenRange s⟩

/-- Settles O30, by the state EXTRACT completes from. -/
theorem extractSerialisesTheChain : Obligations.ExtractSerialisesTheChain := by
  refine ⟨rfl, fun s => ⟨_, execExtract_eq s, ?bytes, ?completed, ?frame, rfl, rfl, rfl⟩⟩
  case bytes => exact fun _ _ hk hj => serialise_getElem_eq_extract s.h hk hj
  case completed => exact completedWith_complete .none (State.setRaw_status s _)
  case frame => exact commandFrame_complete .none (differs_setRaw s _)

end Sys2Proof.Proofs.DigestCommands
end

section
/-! PROOFS. DUMP and READ (44_codec.md R200 to R213): the digits DUMP writes, the values READ takes them for, and which
texts READ rejects. -/

namespace Sys2Proof.Proofs.CodecCommands

open Sys2Proof Sys2Proof.Machine

/-! ### The value of a digit (R208) -/

/-- The three ranges of digits lie apart, so the order in which R208 lists them does not matter. -/
theorem hexValue_eq_some_iff (c : Byte) (n : Nat) : hexValue c = some n ↔
    ((0x30 ≤ c.toNat ∧ c.toNat ≤ 0x39 ∧ n + 0x30 = c.toNat) ∨
     (0x61 ≤ c.toNat ∧ c.toNat ≤ 0x66 ∧ n + 0x61 = c.toNat + 10) ∨
     (0x41 ≤ c.toNat ∧ c.toNat ≤ 0x46 ∧ n + 0x41 = c.toNat + 10)) := by
  unfold hexValue
  split_ifs with hdigit hlower hupper
  · rw [Option.some_inj]; omega
  · rw [Option.some_inj]; omega
  · rw [Option.some_inj]; omega
  · exact ⟨nofun, by omega⟩

theorem hexValue_lt {c : Byte} {n : Nat} (h : hexValue c = some n) : n < 16 := by
  rw [hexValue_eq_some_iff] at h
  omega

/-- Settles O33. -/
theorem hexDigitValues : Obligations.HexDigitValues := hexValue_eq_some_iff

/-! ### DUMP -/

/-- The digits by value, as R200 lists them. -/
def lowercaseDigits : List Byte :=
  [0x30, 0x31, 0x32, 0x33, 0x34, 0x35, 0x36, 0x37, 0x38, 0x39, 0x61, 0x62, 0x63, 0x64, 0x65, 0x66]

theorem some_hexDigit_eq_lowercaseDigits {v : Nat} (hv : v < 16) : some (hexDigit v) = lowercaseDigits[v]? := by
  have all : ∀ k : Fin 16, some (hexDigit k.val) = lowercaseDigits[k.val]? := by decide
  exact all ⟨v, hv⟩

/-- The two digits of byte i in Hex(r) are those of its high and its low nibble (R201). -/
theorem hexEncode_digits (r : Vector Byte 64) (i : Nat) (hi : i < 64) :
    some (hexEncode r)[2 * i] = lowercaseDigits[r[i].toNat / 16]? ∧
    some (hexEncode r)[2 * i + 1] = lowercaseDigits[r[i].toNat % 16]? := by
  have hbyte := r[i].isLt
  rw [hexEncode_high r i hi, hexEncode_low r i hi]
  exact ⟨some_hexDigit_eq_lowercaseDigits (by omega), some_hexDigit_eq_lowercaseDigits (by omega)⟩

/-- Settles O32, by the state DUMP completes from. -/
theorem dumpWritesLowercaseHex : Obligations.DumpWritesLowercaseHex := by
  refine ⟨rfl, fun s => ⟨_, execDump_eq s, ?digits, ?nul, ?completed, ?frame, rfl, rfl, rfl⟩⟩
  case digits => exact hexEncode_digits s.raw
  case nul => exact hexEncode_end s.raw
  case completed => exact completedWith_complete .none (State.setHex_status s _)
  case frame => exact commandFrame_complete .none (differs_setHex s _)

/-! ### READ -/

/-- Byte i of Unhex(T) is worth its two digits (R211); no value of two digits overflows the byte. -/
theorem hexDecode_toNat {t : Vector Byte 129} {i hi lo : Nat} (hlt : i < 64) (hhi : hexValue t[2 * i] = some hi)
    (hlo : hexValue t[2 * i + 1] = some lo) : (hexDecode t)[i].toNat = hi * 16 + lo := by
  have hhi16 := hexValue_lt hhi
  have hlo16 := hexValue_lt hlo
  rw [hexDecode_get t i hlt, hhi, hlo, Option.getD_some, Option.getD_some, BitVec.toNat_ofNat]
  omega

theorem exec_read_of_wellFormed {s : State} (hw : HexWellFormed s.hex) :
    exec .read s = .next (complete .none (s.setRaw (hexDecode s.hex))) := by
  rcases execRead_cases s with ⟨_, h⟩ | ⟨hbad, _⟩
  · exact h
  · exact absurd hw hbad

theorem exec_read_of_not_wellFormed {s : State} (hw : ¬HexWellFormed s.hex) :
    exec .read s = .next (complete .hexMalformed s) := by
  rcases execRead_cases s with ⟨hgood, _⟩ | ⟨_, h⟩
  · exact absurd hgood hw
  · exact h

theorem hexWellFormed_iff (t : Vector Byte 129) :
    HexWellFormed t ↔ t[128] = 0x00 ∧ ∀ (i : Nat) (_ : i < 128), ∃ n, hexValue t[i] = some n := by
  simp only [HexWellFormed, Option.isSome_iff_exists, Fin.forall_iff]

/-- A text is not well formed where the terminator is missing or one of the 128 characters is no digit (R210). -/
theorem not_hexWellFormed_iff (t : Vector Byte 129) :
    ¬HexWellFormed t ↔ t[128] ≠ 0x00 ∨ ∃ (i : Nat) (_ : i < 128), hexValue t[i] = none := by
  rw [hexWellFormed_iff, not_and_or]
  simp only [not_forall, not_exists, Option.eq_none_iff_forall_ne_some, ne_eq]

/-- Settles O34, by the two cases of HEX. -/
theorem readDecodesWellFormedHex : Obligations.ReadDecodesWellFormedHex := by
  refine ⟨rfl, fun s => ⟨?decodes, ?rejects⟩⟩
  case decodes =>
    intro hgood
    exact ⟨_, exec_read_of_wellFormed ((hexWellFormed_iff s.hex).mpr hgood), fun _ hlt _ _ => hexDecode_toNat hlt,
      completedWith_complete .none (State.setRaw_status s _), commandFrame_complete .none (differs_setRaw s _),
      rfl, rfl, rfl⟩
  case rejects =>
    intro hbad
    exact ⟨_, exec_read_of_not_wellFormed ((not_hexWellFormed_iff s.hex).mpr hbad),
      completedWith_complete .hexMalformed rfl, onlyStatusChanged_complete .hexMalformed s⟩

/-- A NUL before index 128, anything but a NUL at 128, and a 'g' (R213), each as a part of R210 that fails. -/
theorem no_nul_or_no_digit_of_named_malformed {t : Vector Byte 129}
    (h : t[127] = 0x00 ∨ t[128] ≠ 0x00 ∨ ∃ (i : Nat) (_ : i < 128), t[i] = 0x67) :
    t[128] ≠ 0x00 ∨ ∃ (i : Nat) (_ : i < 128), hexValue t[i] = none := by
  have hnul : hexValue 0x00 = none := by decide
  have hg : hexValue 0x67 = none := by decide
  rcases h with hshort | hlong | ⟨i, hi, hchar⟩
  · exact .inr ⟨127, by decide, (congrArg hexValue hshort).trans hnul⟩
  · exact .inl hlong
  · exact .inr ⟨i, hi, (congrArg hexValue hchar).trans hg⟩

/-- Settles O35, by the rejections of O34. -/
theorem malformedHexIsRejected : Obligations.MalformedHexIsRejected := by
  intro s hnamed
  obtain ⟨_, hread⟩ := readDecodesWellFormedHex
  obtain ⟨_, hrejects⟩ := hread s
  obtain ⟨t, hexec, hcompleted, honly⟩ := hrejects (no_nul_or_no_digit_of_named_malformed hnamed)
  exact ⟨t, hexec, hcompleted.err.mpr (by decide), hcompleted.errcode, honly.raw⟩

end Sys2Proof.Proofs.CodecCommands
end

section
/-! PROOFS. Completion, errors, the overrun flag and the interrupt (60_exceptions.md R231 to R245): what a command ends
with, and the one inversion of a step by what it does to STATUS and CTRL, from which the statements on OVR and irq
follow. -/

namespace Sys2Proof.Proofs.Exceptions

open Sys2Proof Sys2Proof.Machine Sys2Proof.Proofs.Registers Sys2Proof.Proofs.HostPort

/-! ### Acceptance -/

/-- Settles O5: address 0 is that of CMD whatever BUSY is, and BUSY decides between acceptance and overrun. -/
theorem cmdWriteAcceptsTheWord : Obligations.CmdWriteAcceptsTheWord := by
  intro s w
  have hwrite := portWrite_of_target (addr := 0x0000) (s := s) (r := .cmd) w rfl rfl
  refine ⟨fun hidle => ?accepted, fun hbusy => ?discarded⟩
  case accepted => rw [hwrite, hidle]; rfl
  case discarded => rw [hwrite, hbusy]; rfl

/-! ### Completion -/

theorem engineTurn_of_idle {s : State} (hb : s.status.busy = false) : engineTurn s = .next s := by
  simp [engineTurn, hb]

/-- After a completion the engine agent has no step (R232). -/
theorem engineTurn_complete (c : ErrCode) (s : State) : engineTurn (complete c s) = .next (complete c s) :=
  engineTurn_of_idle (complete_status s c ▸ statusCompleted_busy s.status c)

/-- Settles O8: whatever is performed, a legal word or not, is a completion from a state with the same STATUS. -/
theorem everyCommandEndsWithCompletion : Obligations.EveryCommandEndsWithCompletion := by
  refine ⟨fun i s => ?command, fun s hb => ?turn⟩
  case command =>
    obtain ⟨c, u, hu, hexec⟩ := exec_next i s
    exact ⟨c, _, hexec, completedWith_complete c (differs_status hu), engineTurn_complete c u⟩
  case turn =>
    rcases engineTurn_next s with ⟨hidle, _⟩ | ⟨_, c, u, hu, hturn⟩
    · simp [hb] at hidle
    · exact ⟨c, _, hturn, completedWith_complete c (differs_status hu), engineTurn_complete c u⟩

/-! ### Errors -/

/-- Settles O9: a completion with an error is one of the state as it was, and one without leaves ERR = 0. -/
theorem errorChangesOnlyStatus : Obligations.ErrorChangesOnlyStatus := by
  refine ⟨fun i s t hexec herr => ?command, fun c s => ?raise⟩
  case command =>
    rcases exec_completes i s with ⟨c, hc, h⟩ | ⟨u, _, h⟩
    · cases h.symm.trans hexec
      exact ⟨c, hc, completedWith_complete c rfl, onlyStatusChanged_complete c s⟩
    · cases h.symm.trans hexec
      cases herr
  case raise =>
    exact ⟨_, raiseError_eq c s, completedWith_complete c rfl, onlyStatusChanged_complete c s⟩

/-- Settles O10: a command's cases are its checks in order, each with the code it completes with; an illegal word is
reported before any command is chosen. -/
theorem firstErrorInOrderIsReported : Obligations.FirstErrorInOrderIsReported := by
  refine ⟨fun i s => ?command, fun s hb hw => ⟨_, Encoding.engineTurn_of_illegal hb hw, rfl⟩⟩
  cases i with
  | init => exact ⟨_, execInit_eq s, by simp⟩
  | extract => exact ⟨_, execExtract_eq s, by simp⟩
  | dump => exact ⟨_, execDump_eq s, by simp⟩
  | compress =>
    rcases execCompress_cases s with ⟨hrange, h⟩ | ⟨hfits, hpart, h⟩ | ⟨hfits, hwhole, h⟩
    · exact ⟨_, h, by simp [hrange]⟩
    · exact ⟨_, h, by simp [Nat.not_lt.mpr hfits, hpart]⟩
    · exact ⟨_, h, by simp [Nat.not_lt.mpr hfits, hwhole]⟩
  | digest =>
    rcases execDigest_cases s with ⟨hrange, h⟩ | ⟨hfits, h⟩
    · exact ⟨_, h, by simp [hrange]⟩
    · exact ⟨_, h, by simp [Nat.not_lt.mpr hfits]⟩
  | read =>
    rcases execRead_cases s with ⟨hgood, h⟩ | ⟨hbad, h⟩
    · exact ⟨_, h, by simpa [-not_and] using hgood⟩
    · exact ⟨_, h, by simp [-not_and, hbad]⟩

/-! ### What a step does to STATUS and CTRL -/

/-- A write while BUSY = 0, by the registers CMD, STATUS and CTRL: no other target touches STATUS or CTRL. -/
theorem writeIdle_cases (v : Word) (s : State) (r : Target) :
    (r = .cmd ∧ writeIdle v s r = accept v s) ∨
    (r = .status ∧ writeIdle v s r = s.setStatus (statusAfterWrite v s.status)) ∨
    (r = .ctrl ∧ writeIdle v s r = s.setCtrl (ctrlAfterWrite v)) ∨
    ((writeIdle v s r).status = s.status ∧ (writeIdle v s r).ctrl = s.ctrl) := by
  cases r <;> simp [writeIdle]

/-- The ways from `s` to `t` in which one step can leave STATUS and CTRL, each with the event that has come. -/
inductive FlagStep (s t : State) : Prop
  | kept (status : t.status = s.status) (ctrl : t.ctrl = s.ctrl)
  | completed (c : ErrCode) (moves : EngineMoves s) (busy : s.status.busy = true)
      (status : t.status = statusCompleted c s.status) (ctrl : t.ctrl = s.ctrl)
  | accepted (w : Word) (moves : HostMoves s (.write 0x0000 w)) (idle : s.status.busy = false)
      (status : t.status = statusAccepted s.status) (ctrl : t.ctrl = s.ctrl)
  | statusWritten (v : Word) (moves : HostMoves s (.write 0x0008 v))
      (status : t.status = statusAfterWrite v s.status) (ctrl : t.ctrl = s.ctrl)
  | ctrlWritten (v : Word) (moves : HostMoves s (.write 0x0010 v))
      (status : t.status = s.status) (ctrl : t.ctrl = ctrlAfterWrite v)
  | overrun (addr v : Word) (moves : HostMoves s (.write addr v)) (busy : s.status.busy = true)
      (mapped : MappedAddress s.msgBytes addr.toNat) (notStatus : addr ≠ 0x0008) (notCtrl : addr ≠ 0x0010)
      (status : t.status = statusOverrun s.status) (ctrl : t.ctrl = s.ctrl)
  | reset (moves : ResetMoves s) (status : t.status = statusAtReset) (ctrl : t.ctrl = ⟨false⟩)

/-- A turn of the engine agent completes the command in progress, or leaves STATUS as it is. -/
theorem flagStep_of_engineMoves {s t : State} (hm : EngineMoves s) (h : step s = .next t) : FlagStep s t := by
  rw [step_of_engineMoves hm] at h
  rcases engineTurn_next (s.setEvents s.events.tail) with ⟨_, hturn⟩ | ⟨hb, c, u, hu, hturn⟩
  · cases hturn.symm.trans h
    exact .kept rfl rfl
  · cases hturn.symm.trans h
    have hstatus : u.status = s.status := (differs_status hu).trans (State.setEvents_status s _)
    have hctrl : u.ctrl = s.ctrl := (differs_ctrl hu).trans (State.setEvents_ctrl s _)
    exact .completed c hm hb (by rw [complete_status, hstatus]) hctrl

/-- A host transaction reaches STATUS and CTRL by a write to CMD, STATUS or CTRL, or by an overrun. -/
theorem flagStep_of_hostMoves {s : State} {x : Txn} {rest : List Event} (he : s.events = .host x :: rest) :
    FlagStep s (hostTurn x (s.setEvents rest)) := by
  rcases hostTurn_cases x (s.setEvents rest) with ⟨a, h⟩ | ⟨a, _, h⟩ | ⟨addr, v, r, rfl, ha, ht, hb, h⟩ |
    ⟨addr, v, r, rfl, ha, ht, hb, h⟩
  · rw [h]; exact .kept rfl rfl
  · rw [h]; exact .kept rfl rfl
  · obtain ⟨_, hstatus, hctrl⟩ := targetOf_control ht
    rw [h]
    rcases writeBusy_cases v (s.setEvents rest) r with ⟨hr, hw⟩ | ⟨hr, hw⟩ | ⟨hs, hc, hw⟩
    · obtain rfl := hstatus.1 hr
      rw [hw]; exact .statusWritten v ⟨rest, he⟩ rfl rfl
    · obtain rfl := hctrl.1 hr
      rw [hw]; exact .ctrlWritten v ⟨rest, he⟩ rfl rfl
    · rw [hw]
      exact .overrun addr v ⟨rest, he⟩ hb (targetOf_mapped ht ha) (mt hstatus.2 hs) (mt hctrl.2 hc) rfl rfl
  · obtain ⟨hcmd, hstatus, hctrl⟩ := targetOf_control ht
    rw [h]
    rcases writeIdle_cases v (s.setEvents rest) r with ⟨hr, hw⟩ | ⟨hr, hw⟩ | ⟨hr, hw⟩ | ⟨hs, hc⟩
    · obtain rfl := hcmd.1 hr
      rw [hw]; exact .accepted v ⟨rest, he⟩ hb rfl rfl
    · obtain rfl := hstatus.1 hr
      rw [hw]; exact .statusWritten v ⟨rest, he⟩ rfl rfl
    · obtain rfl := hctrl.1 hr
      rw [hw]; exact .ctrlWritten v ⟨rest, he⟩ rfl rfl
    · exact .kept hs hc

/-- All a step can do to STATUS and CTRL. -/
theorem flagStep_of_step {s t : State} (h : step s = .next t) : FlagStep s t := by
  rcases step_cases s with ⟨he, _⟩ | ⟨rest, he, _⟩ | ⟨x, rest, he, hstep⟩ | ⟨rest, he, hstep⟩
  · exact flagStep_of_engineMoves (.inl he) h
  · exact flagStep_of_engineMoves (.inr ⟨rest, he⟩) h
  · cases hstep.symm.trans h
    exact flagStep_of_hostMoves he
  · cases hstep.symm.trans h
    exact .reset ⟨rest, he⟩ rfl rfl

/-! ### The overrun flag -/

/-- No command reads STATUS: with another one before it, it completes with the same code and the same results. -/
theorem exec_setStatus (i : Instr) (s : State) (f : Status) :
    ∃ c u, exec i s = .next (complete c u) ∧ exec i (s.setStatus f) = .next (complete c (u.setStatus f)) := by
  cases i with
  | init => exact ⟨_, _, execInit_eq s, execInit_eq (s.setStatus f)⟩
  | extract => exact ⟨_, _, execExtract_eq s, execExtract_eq (s.setStatus f)⟩
  | dump => exact ⟨_, _, execDump_eq s, execDump_eq (s.setStatus f)⟩
  | compress =>
    rcases execCompress_cases s with ⟨hrange, h⟩ | ⟨hfits, hpart, h⟩ | ⟨hfits, hwhole, h⟩
    · exact ⟨_, _, h, exec_of_len_out_of_range (.inl rfl) hrange⟩
    · exact ⟨_, _, h, ChainCommands.exec_compress_of_not_whole (s := s.setStatus f) hfits hpart⟩
    · exact ⟨_, _, h, ChainCommands.exec_compress_of_whole (s := s.setStatus f) hfits hwhole⟩
  | digest =>
    rcases execDigest_cases s with ⟨hrange, h⟩ | ⟨hfits, h⟩
    · exact ⟨_, _, h, exec_of_len_out_of_range (.inr rfl) hrange⟩
    · exact ⟨_, _, h, DigestCommands.exec_digest_of_fits (s := s.setStatus f) hfits⟩
  | read =>
    rcases execRead_cases s with ⟨hgood, h⟩ | ⟨hbad, h⟩
    · exact ⟨_, _, h, CodecCommands.exec_read_of_wellFormed (s := s.setStatus f) hgood⟩
    · exact ⟨_, _, h, CodecCommands.exec_read_of_not_wellFormed (s := s.setStatus f) hbad⟩

/-- OVR rises by a discarded write alone (R242). -/
theorem FlagStep.ovr_rises {s t : State} (h : FlagStep s t) (hs : s.status.ovr = false) (ht : t.status.ovr = true) :
    ∃ addr v, HostMoves s (.write addr v) ∧ s.status.busy = true ∧ MappedAddress s.msgBytes addr.toNat ∧
      addr ≠ 0x0008 ∧ addr ≠ 0x0010 := by
  cases h with
  | overrun addr v moves busy mapped notStatus notCtrl => exact ⟨addr, v, moves, busy, mapped, notStatus, notCtrl⟩
  | kept status | completed _ _ _ status | accepted _ _ _ status | statusWritten _ _ status | ctrlWritten _ _ status
  | reset _ status => simp [status, hs, statusAtReset] at ht

/-- OVR falls by a write of 1 to its bit or by a reset alone (R242). -/
theorem FlagStep.ovr_falls {s t : State} (h : FlagStep s t) (hs : s.status.ovr = true) (ht : t.status.ovr = false) :
    (∃ v : Word, HostMoves s (.write 0x0008 v) ∧ v.getLsbD 3 = true) ∨ ResetMoves s := by
  cases h with
  | statusWritten v moves status => exact .inl ⟨v, moves, by simpa [status, hs] using ht⟩
  | reset moves => exact .inr moves
  | kept status | completed _ _ _ status | accepted _ _ _ status | ctrlWritten _ _ status
  | overrun _ _ _ _ _ _ _ status => simp [status, hs] at ht

/-- Settles O53, by the discarded writes of R54, a command's independence of STATUS, and the inversion of a step. -/
theorem overrunIsStickyAndRecordsDiscardedWrites : Obligations.OverrunIsStickyAndRecordsDiscardedWrites := by
  refine ⟨?discarded, ?command, fun w s => ?acceptance, fun s t h => ?step⟩
  case discarded =>
    intro s addr v hb hm hs hc
    obtain ⟨_, _, _, _, _, hother⟩ := accessWhileBusy s addr v hb hm
    exact hother hs hc
  case command =>
    intro i s t h
    obtain ⟨c, u, hexec, hoverrun⟩ := exec_setStatus i s (statusOverrun s.status)
    cases hexec.symm.trans h
    exact hoverrun
  case acceptance => rw [accept_status, statusAccepted_ovr]
  case step => exact ⟨(flagStep_of_step h).ovr_rises, (flagStep_of_step h).ovr_falls⟩

/-! ### The interrupt -/

theorem irq_iff (s : State) : s.irq = true ↔ s.status.done = true ∧ s.ctrl.ie = true := Bool.and_eq_true_iff

/-- A completed command raises irq exactly where IE allows it, whatever its code (R245). -/
theorem irq_complete (c : ErrCode) (s : State) : (complete c s).irq = s.ctrl.ie := Bool.true_and _

/-- irq rises by a completion or by a write of 1 to IE alone (R245). -/
theorem FlagStep.irq_rises {s t : State} (h : FlagStep s t) (hs : s.irq = false) (ht : t.irq = true) :
    (EngineMoves s ∧ s.status.busy = true ∧ t.status.busy = false) ∨
    ∃ v : Word, HostMoves s (.write 0x0010 v) ∧ v.getLsbD 0 = true := by
  obtain ⟨hdone, hie⟩ := (irq_iff t).1 ht
  cases h with
  | completed c moves busy status => exact .inl ⟨moves, busy, by rw [status, statusCompleted_busy]⟩
  | ctrlWritten v moves _ ctrl => exact .inr ⟨v, moves, by rw [← hie, ctrl, ctrlAfterWrite_ie]⟩
  | kept status ctrl | overrun _ _ _ _ _ _ _ status ctrl =>
    have hirq : s.irq = true := (irq_iff s).2 ⟨by simpa [status] using hdone, ctrl ▸ hie⟩
    simp [hs] at hirq
  | statusWritten v _ status ctrl =>
    obtain ⟨hbefore, _⟩ : s.status.done = true ∧ v.getLsbD 1 = false := by simpa [status] using hdone
    have hirq : s.irq = true := (irq_iff s).2 ⟨hbefore, ctrl ▸ hie⟩
    simp [hs] at hirq
  | accepted _ _ _ status => simp [status] at hdone
  | reset _ status => simp [status, statusAtReset] at hdone

/-- irq falls by a write of 1 to DONE's bit, a write of 0 to IE, an acceptance or a reset alone (R245). -/
theorem FlagStep.irq_falls {s t : State} (h : FlagStep s t) (hs : s.irq = true) (ht : t.irq = false) :
    (∃ v : Word, HostMoves s (.write 0x0008 v) ∧ v.getLsbD 1 = true) ∨
    (∃ v : Word, HostMoves s (.write 0x0010 v) ∧ v.getLsbD 0 = false) ∨
    (∃ w : Word, HostMoves s (.write 0x0000 w) ∧ s.status.busy = false) ∨ ResetMoves s := by
  obtain ⟨hdone, hie⟩ := (irq_iff s).1 hs
  cases h with
  | statusWritten v moves status ctrl =>
    exact .inl ⟨v, moves, by simpa [State.irq, status, ctrl, hdone, hie] using ht⟩
  | ctrlWritten v moves status ctrl =>
    exact .inr (.inl ⟨v, moves, by simpa [State.irq, status, ctrl, hdone] using ht⟩)
  | accepted w moves idle => exact .inr (.inr (.inl ⟨w, moves, idle⟩))
  | reset moves => exact .inr (.inr (.inr moves))
  | kept status ctrl | completed _ _ _ status ctrl | overrun _ _ _ _ _ _ _ status ctrl =>
    simp [State.irq, status, ctrl, hdone, hie] at ht

/-- Settles O54, by the completion every command ends with and the inversion of a step. -/
theorem interruptRisesAndFalls : Obligations.InterruptRisesAndFalls := by
  refine ⟨irq_iff, fun i s t h => ?command, fun s t h => ?step⟩
  case command =>
    obtain ⟨c, u, hu, hexec⟩ := exec_next i s
    cases hexec.symm.trans h
    rw [irq_complete, differs_ctrl hu]
  case step => exact ⟨(flagStep_of_step h).irq_rises, (flagStep_of_step h).irq_falls⟩

end Sys2Proof.Proofs.Exceptions
end

section
/-! PROOFS. Reset (70_reset_and_hazards.md R270, R272): the engine that reset leaves idle stays idle until the host's
first CMD write. -/

namespace Sys2Proof.Proofs.Reset

open Sys2Proof Sys2Proof.Machine Sys2Proof.Proofs.Exceptions

theorem step_of_resetMoves {s : State} (hm : ResetMoves s) :
    step s = .next (assertReset (s.setEvents s.events.tail)) := by
  obtain ⟨rest, he⟩ := hm
  simp [step, nextEvent, he]

/-- BUSY rises by a CMD write alone (R231). -/
theorem cmdWritten_of_busy_rises {s t : State} (h : FlagStep s t) (hs : s.status.busy = false)
    (ht : t.status.busy = true) : ∃ w, HostMoves s (.write 0x0000 w) := by
  cases h with
  | accepted w moves => exact ⟨w, moves⟩
  | kept status | completed _ _ _ status | statusWritten _ _ status | ctrlWritten _ _ status
  | overrun _ _ _ _ _ _ _ status | reset _ status => simp [status, hs, statusAtReset] at ht

/-- Settles O56: reset clears BUSY, an engine with BUSY = 0 has no step, and only a CMD write raises BUSY again. -/
theorem resetLeavesTheEngineIdle : Obligations.ResetLeavesTheEngineIdle := by
  refine ⟨fun s t hm h => ?afterReset, rfl, engineTurn_of_idle rfl, fun s t hidle hnoCmd h => ?untilCmdWrite⟩
  case afterReset =>
    cases (step_of_resetMoves hm).symm.trans h
    exact ⟨rfl, engineTurn_of_idle rfl⟩
  case untilCmdWrite =>
    refine Bool.eq_false_iff.2 fun hbusy => ?_
    obtain ⟨w, hw⟩ := cmdWritten_of_busy_rises (flagStep_of_step h) hidle hbusy
    exact hnoCmd w hw

end Sys2Proof.Proofs.Reset
end

section
/-! PROOFS. What one step can do to the whole state: it always answers a next state, it takes one event off, and
it keeps the size of the buffer; and BUSY, which rises by an acceptance and falls by a completion or a reset. -/

namespace Sys2Proof.Proofs.Steps

open Sys2Proof Sys2Proof.Machine Sys2Proof.Proofs.Registers Sys2Proof.Proofs.Exceptions Sys2Proof.Proofs.Reset

/-! ### The step of each agent -/

/-- A turn of the engine agent always answers a next state: there are no traps (R235). -/
theorem engineTurn_total (s : State) : ∃ t, engineTurn s = .next t := by
  rcases engineTurn_next s with ⟨_, h⟩ | ⟨_, _, _, _, h⟩
  · exact ⟨_, h⟩
  · exact ⟨_, h⟩

/-- After a turn of the engine agent BUSY is 0: it was, or the command has completed. -/
theorem engineTurn_busy {s t : State} (h : engineTurn s = .next t) : t.status.busy = false := by
  rcases engineTurn_next s with ⟨hb, hi⟩ | ⟨_, c, u, _, hc⟩
  · cases hi.symm.trans h
    exact hb
  · cases hc.symm.trans h
    rw [complete_status, statusCompleted_busy]

/-- What a turn of the engine agent never writes: MSG (R63), the size of its buffer, and the events to come. -/
theorem engineTurn_keeps {s t : State} (h : engineTurn s = .next t) :
    t.msg = s.msg ∧ t.msgBytes = s.msgBytes ∧ t.events = s.events := by
  rcases engineTurn_next s with ⟨_, hi⟩ | ⟨_, c, u, hu, hc⟩
  · cases hi.symm.trans h
    exact ⟨rfl, rfl, rfl⟩
  · cases hc.symm.trans h
    rw [complete_msg, complete_msgBytes, complete_events]
    exact ⟨differs_msg hu, differs_msgBytes hu, differs_events hu⟩

theorem step_of_hostMoves {s : State} {x : Txn} (hm : HostMoves s x) :
    step s = .next (hostTurn x (s.setEvents s.events.tail)) := by
  obtain ⟨rest, he⟩ := hm
  simp [step, nextEvent, he]

/-- Whose turn it is: the engine agent's, the host's, or that of the reset input. -/
theorem moves_cases (s : State) : EngineMoves s ∨ (∃ x, HostMoves s x) ∨ ResetMoves s := by
  rcases step_cases s with ⟨he, _⟩ | ⟨rest, he, _⟩ | ⟨x, rest, he, _⟩ | ⟨rest, he, _⟩
  · exact .inl (.inl he)
  · exact .inl (.inr ⟨rest, he⟩)
  · exact .inr (.inl ⟨x, rest, he⟩)
  · exact .inr (.inr ⟨rest, he⟩)

/-- One step, by whose turn it is. -/
theorem step_eq_cases {s t : State} (h : step s = .next t) :
    (EngineMoves s ∧ engineTurn (s.setEvents s.events.tail) = .next t) ∨
    (∃ x, HostMoves s x ∧ t = hostTurn x (s.setEvents s.events.tail)) ∨
    (ResetMoves s ∧ t = assertReset (s.setEvents s.events.tail)) := by
  rcases moves_cases s with hm | ⟨x, hm⟩ | hm
  · exact .inl ⟨hm, (step_of_engineMoves hm).symm.trans h⟩
  · cases (step_of_hostMoves hm).symm.trans h
    exact .inr (.inl ⟨x, hm, rfl⟩)
  · cases (step_of_resetMoves hm).symm.trans h
    exact .inr (.inr ⟨hm, rfl⟩)

theorem step_total (s : State) : ∃ t, step s = .next t := by
  rcases moves_cases s with hm | ⟨x, hm⟩ | hm
  · rw [step_of_engineMoves hm]
    exact engineTurn_total _
  · exact ⟨_, step_of_hostMoves hm⟩
  · exact ⟨_, step_of_resetMoves hm⟩

/-- A step takes one event off those to come, where one is left. -/
theorem step_events {s t : State} (h : step s = .next t) : t.events = s.events.tail := by
  rcases step_eq_cases h with ⟨_, ht⟩ | ⟨x, _, rfl⟩ | ⟨_, rfl⟩
  · obtain ⟨_, _, hevents⟩ := engineTurn_keeps ht
    exact hevents
  · exact hostTurn_events x _
  · rfl

theorem step_msgBytes {s t : State} (h : step s = .next t) : t.msgBytes = s.msgBytes := by
  rcases step_eq_cases h with ⟨_, ht⟩ | ⟨x, _, rfl⟩ | ⟨_, rfl⟩
  · obtain ⟨_, hsize, _⟩ := engineTurn_keeps ht
    exact hsize
  · exact hostTurn_msgBytes x _
  · rfl

/-- Settles O13: each agent's move answers a next state of the same buffer size. -/
theorem noStepStopsAndSizeIsFixed : Obligations.NoStepStopsAndSizeIsFixed := by
  intro s
  obtain ⟨t, h⟩ := step_total s
  exact ⟨t, h, step_msgBytes h⟩

/-! ### The engine's turn -/

/-- Settles O6: the engine's move is its turn, which looks at PEND while BUSY = 1. -/
theorem stepPerformsThePendingCommand : Obligations.StepPerformsThePendingCommand := by
  intro s hb hm
  rw [step_of_engineMoves hm]
  refine ⟨fun i hd => ?command, fun why hd => ?illegal⟩
  case command => simp [engineTurn, hb, hd]
  case illegal => simp [engineTurn, hb, hd]

/-- Settles O7. -/
theorem idleEngineHasNoStep : Obligations.IdleEngineHasNoStep := by
  intro s hb
  refine ⟨engineTurn_of_idle hb, fun he => ?noEvent, fun rest he => ?turn⟩
  case noEvent =>
    have hs : s.setEvents s.events.tail = s := by rw [he, List.tail_nil, ← he]; rfl
    rw [step_of_engineMoves (.inl he), hs, engineTurn_of_idle hb]
  case turn =>
    rw [step_of_engineMoves (.inr ⟨rest, he⟩), he, List.tail_cons]
    exact engineTurn_of_idle hb

/-- A table word is a command exactly where its bits below `nbits` are a port word that decodes to it. -/
theorem decode_of_decodeTableWord {nbits w : Nat} {i : Instr} (h : decodeTableWord nbits w = some i) :
    decode (BitVec.ofNat 64 (w % 2 ^ nbits)) = .command i := by
  unfold decodeTableWord at h
  split at h
  · split at h
    · rename_i j hj
      cases h
      exact hj
    · cases h
  · cases h

/-- The step after a legal word is placed performs its command, on the state that has accepted the word. -/
theorem step_placeCommand (s : State) {w : Word} {i : Instr} (hd : decode w = .command i) :
    step (placeCommand w s) = exec i (accept w s) := by
  have hm : EngineMoves (placeCommand w s) := .inr ⟨s.events, placeCommand_events s w⟩
  obtain ⟨hcommand, _⟩ := stepPerformsThePendingCommand (placeCommand w s) (placeCommand_busy s w) hm
  exact hcommand i hd

/-- Settles O4: the rows are evaluated; a word that decodes to a command is the command's own. -/
theorem tableWordIsWhatTheNextStepPerforms : Obligations.TableWordIsWhatTheNextStepPerforms := by
  refine ⟨⟨rfl, rfl, rfl, rfl, rfl, rfl⟩, fun s nbits w i h => ?_⟩
  have hd := decode_of_decodeTableWord h
  rw [← (Encoding.decode_eq_command_iff_eq_encode _ i).1 hd]
  exact step_placeCommand s hd

/-- Settles O3, by the word of each command and by the field that makes each other word illegal. -/
theorem decodeOfWrittenOutWords : Obligations.DecodeOfWrittenOutWords := by
  have hcommand (i : Instr) := (Encoding.decode_eq_command_iff_eq_encode (encode i) i).2 rfl
  exact ⟨hcommand .init, hcommand .compress, hcommand .digest, hcommand .read, rfl, rfl, rfl, rfl⟩

/-! ### BUSY -/

/-- A write of CMD while BUSY = 0 leaves the word in PEND (R231). -/
theorem pend_of_cmdWritten {s t : State} {w : Word} (hm : HostMoves s (.write 0x0000 w))
    (hidle : s.status.busy = false) (h : step s = .next t) : t.pend = w := by
  obtain ⟨haccept, _⟩ := cmdWriteAcceptsTheWord (s.setEvents s.events.tail) w
  cases (step_of_hostMoves hm).symm.trans h
  rw [hostTurn, transact, haccept hidle]
  rfl

/-- BUSY falls by a completion or a reset alone. -/
theorem completed_or_reset_of_busy_falls {s t : State} (h : FlagStep s t) (hs : s.status.busy = true)
    (ht : t.status.busy = false) : (EngineMoves s ∧ t.status.done = true) ∨ ResetMoves s := by
  cases h with
  | completed c moves _ status => exact .inl ⟨moves, by rw [status, statusCompleted_done]⟩
  | reset moves => exact .inr moves
  | kept status | accepted _ _ _ status | statusWritten _ _ status | ctrlWritten _ _ status
  | overrun _ _ _ _ _ _ _ status => simp [status, hs] at ht

/-- Settles O11, by the inversion of a step and by what an acceptance leaves in PEND. -/
theorem busyRisesByAcceptanceAndFallsByCompletion : Obligations.BusyRisesByAcceptanceAndFallsByCompletion := by
  intro s t h
  refine ⟨fun hs ht => ?rises, completed_or_reset_of_busy_falls (flagStep_of_step h)⟩
  obtain ⟨w, hm⟩ := cmdWritten_of_busy_rises (flagStep_of_step h) hs ht
  exact ⟨w, hm, pend_of_cmdWritten hm hs h⟩

/-- Settles O12, by induction on the events to come: a step takes one off, and with none left the engine agent has its
turn. -/
theorem acceptedCommandCompletes : Obligations.AcceptedCommandCompletes := by
  intro s
  induction hes : s.events generalizing s with
  | nil =>
    obtain ⟨t, ht⟩ := step_total s
    refine ⟨t, run_succ 0 ht, ?_⟩
    rw [step_of_engineMoves (.inl hes)] at ht
    exact engineTurn_busy ht
  | cons e rest ih =>
    obtain ⟨t, ht⟩ := step_total s
    have htail : t.events = rest := by rw [step_events ht, hes, List.tail_cons]
    obtain ⟨u, hrun, hu⟩ := ih t htail
    exact ⟨u, (run_succ (rest.length + 1) ht).trans hrun, hu⟩

end Sys2Proof.Proofs.Steps
end

section
/-! PROOFS. The values reset leaves (70_reset_and_hazards.md R270), and the invariant: what is coherent at reset stays
so over every step. -/

namespace Sys2Proof.Proofs.Invariant

open Sys2Proof Sys2Proof.Machine Sys2Proof.Proofs.Exceptions Sys2Proof.Proofs.Reset Sys2Proof.Proofs.Steps

/-! ### The parts of coherence -/

/-- The part of coherence that is on STATUS: ERR is the sign of a nonzero ERRCODE (R232), and BUSY comes with the flags
of the last completion clear (R231). -/
def FlagsCoherent (f : Status) : Prop :=
  f.err = (f.errcode != .none) ∧ (f.busy = true → f.done = false ∧ f.errcode = .none)

/-- The part of coherence that is on MSG: the canonical form, inside a buffer of `n` bytes. -/
def MessageCoherent (n : Nat) (m : Memory) : Prop := Memory.wf m = true ∧ ∀ c ∈ m, c.1 < n

theorem coherent_iff (s : State) :
    Coherent s ↔ sizeLegal s.msgBytes = true ∧ MessageCoherent s.msgBytes s.msg ∧ FlagsCoherent s.status :=
  ⟨fun ⟨hsize, hsorted, hinside, herr, hbusy⟩ => ⟨hsize, ⟨hsorted, hinside⟩, herr, hbusy⟩,
    fun ⟨hsize, ⟨hsorted, hinside⟩, herr, hbusy⟩ => ⟨hsize, hsorted, hinside, herr, hbusy⟩⟩

theorem sizeLegal_iff (n : Nat) : sizeLegal n = true ↔ n % 8 = 0 ∧ 256 ≤ n ∧ 0x1000 + n ≤ 2 ^ 64 := by
  simp [sizeLegal, and_assoc]

/-! ### STATUS -/

theorem flagsCoherent_atReset : FlagsCoherent statusAtReset := ⟨rfl, nofun⟩

theorem flagsCoherent_accepted (f : Status) : FlagsCoherent (statusAccepted f) := ⟨rfl, fun _ => ⟨rfl, rfl⟩⟩

theorem flagsCoherent_completed (c : ErrCode) (f : Status) : FlagsCoherent (statusCompleted c f) := ⟨rfl, nofun⟩

/-- A host write of STATUS reaches DONE and OVR alone, and DONE only to clear it (R28). -/
theorem flagsCoherent_afterWrite {f : Status} (v : Word) (h : FlagsCoherent f) :
    FlagsCoherent (statusAfterWrite v f) := by
  obtain ⟨herr, hbusy⟩ := h
  refine ⟨herr, fun hb => ?_⟩
  obtain ⟨hdone, hcode⟩ := hbusy hb
  exact ⟨by rw [statusAfterWrite_done, hdone, Bool.false_and], hcode⟩

theorem flagsCoherent_overrun {f : Status} (h : FlagsCoherent f) : FlagsCoherent (statusOverrun f) := h

/-- No step leaves STATUS with flags that do not go together. -/
theorem flagsCoherent_of_flagStep {s t : State} (hs : FlagsCoherent s.status) (h : FlagStep s t) :
    FlagsCoherent t.status := by
  cases h with
  | kept status | ctrlWritten _ _ status => rwa [status]
  | completed c _ _ status => rw [status]; exact flagsCoherent_completed c _
  | accepted _ _ _ status => rw [status]; exact flagsCoherent_accepted _
  | statusWritten v _ status => rw [status]; exact flagsCoherent_afterWrite v hs
  | overrun _ _ _ _ _ _ _ status => rw [status]; exact flagsCoherent_overrun hs
  | reset _ status => rw [status]; exact flagsCoherent_atReset

/-! ### MSG -/

/-- The word of MSG an aligned address names lies inside a buffer of a legal size (R10, R51). -/
theorem msgWord_inside {n a off : Nat} (hn : sizeLegal n = true) (ha : a % 8 = 0)
    (ht : targetOf n a = some (.msg off)) : off + 8 ≤ n := by
  obtain ⟨hn8, _, _⟩ := (sizeLegal_iff n).1 hn
  obtain ⟨hlow, hhigh, hoff⟩ : 0x1000 ≤ a ∧ a < 0x1000 + n ∧ off = a - 0x1000 := by
    simpa using targetOf_some ht
  omega

theorem messageCoherent_memWriteWord {n off : Nat} {m : Memory} (v : Word) (h : MessageCoherent n m)
    (hoff : off + 8 ≤ n) : MessageCoherent n (memWriteWord m off v) := by
  obtain ⟨hsorted, hinside⟩ := h
  refine ⟨wf_memWriteWord m off v hsorted, fun c hc => ?_⟩
  rcases mem_memWriteWord hc with ⟨_, hlt⟩ | hold
  · omega
  · exact hinside c hold

theorem messageCoherent_nil (n : Nat) : MessageCoherent n [] := ⟨rfl, nofun⟩

@[simp] theorem writeBusy_msg (v : Word) (s : State) (r : Target) : (writeBusy v s r).msg = s.msg := by
  rcases writeBusy_cases v s r with ⟨_, h⟩ | ⟨_, h⟩ | ⟨_, _, h⟩ <;> rw [h] <;> rfl

/-- A write while BUSY = 0 reaches MSG by the word it is to alone. -/
theorem writeIdle_msg (v : Word) (s : State) (r : Target) :
    (writeIdle v s r).msg = s.msg ∨ ∃ off, r = .msg off ∧ (writeIdle v s r).msg = memWriteWord s.msg off v := by
  cases r with
  | msg off => exact .inr ⟨off, rfl, rfl⟩
  | _ => exact .inl rfl

/-- A host transaction keeps MSG in canonical form and inside the buffer. -/
theorem messageCoherent_hostTurn (x : Txn) {s : State} (hn : sizeLegal s.msgBytes = true)
    (h : MessageCoherent s.msgBytes s.msg) : MessageCoherent s.msgBytes (hostTurn x s).msg := by
  rcases hostTurn_cases x s with ⟨_, hx⟩ | ⟨_, _, hx⟩ | ⟨_, v, r, _, _, _, _, hx⟩ | ⟨_, v, r, _, ha, ht, _, hx⟩
  · rwa [hx]
  · rwa [hx]
  · rwa [hx, State.pushAnswer_msg, writeBusy_msg]
  · rw [hx, State.pushAnswer_msg]
    rcases writeIdle_msg v s r with hkept | ⟨off, rfl, hword⟩
    · rwa [hkept]
    · rw [hword]
      exact messageCoherent_memWriteWord v h (msgWord_inside hn ha ht)

/-- A step keeps MSG in canonical form and inside the buffer: the engine does not write it, and reset empties it. -/
theorem messageCoherent_of_step {s t : State} (hn : sizeLegal s.msgBytes = true)
    (hs : MessageCoherent s.msgBytes s.msg) (h : step s = .next t) : MessageCoherent s.msgBytes t.msg := by
  rcases step_eq_cases h with ⟨_, ht⟩ | ⟨x, _, rfl⟩ | ⟨_, rfl⟩
  · obtain ⟨hmsg, _, _⟩ := engineTurn_keeps ht
    rwa [hmsg]
  · exact messageCoherent_hostTurn x (s := s.setEvents s.events.tail) hn hs
  · exact messageCoherent_nil _

/-- Settles O58, part by part: no step changes the size, and each part of the state keeps its own. -/
theorem everyStepKeepsCoherence : Obligations.EveryStepKeepsCoherence := by
  intro s t hs h
  obtain ⟨hsize, hmsg, hflags⟩ := (coherent_iff s).1 hs
  rw [coherent_iff, step_msgBytes h]
  exact ⟨hsize, messageCoherent_of_step hsize hmsg h, flagsCoherent_of_flagStep hflags (flagStep_of_step h)⟩

/-! ### Reset -/

/-- The size of the engine that `State.reset` is has been brought into those R10 allows. -/
theorem sizeLegal_config_msgBytes : sizeLegal Config.msgBytes = true := by
  rw [sizeLegal_iff, Config.msgBytes]
  omega

/-- Settles O57: nothing is written to MSG, and every flag is clear. -/
theorem resetStateIsCoherent : Obligations.ResetStateIsCoherent :=
  (coherent_iff State.reset).2 ⟨sizeLegal_config_msgBytes, messageCoherent_nil _, flagsCoherent_atReset⟩

/-- Every register of `t` is as `State.resetWith` leaves it; what is not the engine's may be anything. -/
def HasResetRegisters (t : State) : Prop :=
  t = { State.resetWith t.msgBytes with resets := t.resets, draws := t.draws, events := t.events, answers := t.answers }

theorem hasResetRegisters_reset : HasResetRegisters State.reset := rfl

theorem hasResetRegisters_assertReset (s : State) : HasResetRegisters (assertReset s) := rfl

theorem statusWord_atReset : statusWord statusAtReset = 0 := by decide

theorem ctrlWord_atReset : ctrlWord ⟨false⟩ = 0 := by decide

/-- Settles O55: at `State.reset` and after a reset event every register is that of `State.resetWith`. -/
theorem resetPutsEveryRegister : Obligations.ResetPutsEveryRegister := by
  intro t ht
  have hreset : HasResetRegisters t := by
    rcases ht with rfl | ⟨s, hm, h⟩
    · exact hasResetRegisters_reset
    · cases (step_of_resetMoves hm).symm.trans h
      exact hasResetRegisters_assertReset _
  rw [hreset]
  exact ⟨rfl, rfl, rfl, fun _ _ => Vector.getElem_replicate _, fun _ _ => Vector.getElem_replicate _,
    statusWord_atReset, ctrlWord_atReset, rfl⟩

end Sys2Proof.Proofs.Invariant
end

section
/-! PROOFS. The word functions bit by bit and at their corner cases (00_scope.md R14; 40_functions.md R108). -/

namespace Sys2Proof.Proofs.WordFunctions

open Sys2Proof Sys2Proof.Machine Sys2Proof.Proofs.Functions

/-! ### ROTR and SHR -/

theorem shr_getLsbD (x : Word) (n i : Nat) : (shr x n).getLsbD i = x.getLsbD (n + i) := BitVec.getLsbD_ushiftRight x n i

/-- The two shifts of ROTR split the bits at the place where the rotation wraps. -/
theorem rotr_getLsbD (x : Word) {n i : Nat} (hn : 0 < n) (hn64 : n < 64) (hi : i < 64) :
    (rotr x n).getLsbD i = x.getLsbD ((i + n) % 64) := by
  have hshifts : (rotr x n).getLsbD i = (x.getLsbD (n + i) || (!decide (i < 64 - n) && x.getLsbD (i - (64 - n)))) := by
    simp only [rotr, BitVec.getLsbD_or, BitVec.getLsbD_ushiftRight, BitVec.getLsbD_shiftLeft, hi, decide_true,
      Bool.true_and]
  rw [hshifts]
  by_cases hwrap : i + n < 64
  · have hleft : i < 64 - n := by omega
    rw [Nat.mod_eq_of_lt hwrap, Nat.add_comm i n]
    simp [hleft]
  · have hleft : ¬i < 64 - n := by omega
    have hplace : (i + n) % 64 = i - (64 - n) := by omega
    rw [hplace, BitVec.getLsbD_of_ge x (n + i) (by omega)]
    simp [hleft]

/-- Settles O19; a bit that SHR would take from beyond the word is 0. -/
theorem rotateAndShiftMoveBits : Obligations.RotateAndShiftMoveBits := by
  intro x n i hn hn64 hi
  refine ⟨rotr_getLsbD x hn hn64 hi, ?shr⟩
  rw [shr_getLsbD, Nat.add_comm n i]
  by_cases hin : i + n < 64
  · simp [hin]
  · rw [BitVec.getLsbD_of_ge x (i + n) (by omega), Bool.and_false]

/-! ### Corner cases -/

/-- Where both choices agree, Ch is that choice. -/
theorem choose_self (x y : Word) : choose x y y = y := by
  apply BitVec.eq_of_getLsbD_eq
  intro i hi
  rw [choose_getLsbD x y y i hi, ite_self]

/-- Where no bit of x is set, Ch takes every bit from z. -/
theorem choose_zero (y z : Word) : choose 0 y z = z := by
  apply BitVec.eq_of_getLsbD_eq
  intro i hi
  have hzero : (0 : Word).getLsbD i = false := BitVec.getLsbD_zero
  rw [choose_getLsbD 0 y z i hi, hzero, if_neg Bool.false_ne_true]

/-- Where every bit of x is set, Ch takes every bit from y. -/
theorem choose_allOnes (y z : Word) : choose (BitVec.allOnes 64) y z = y := by
  apply BitVec.eq_of_getLsbD_eq
  intro i hi
  have hone : (BitVec.allOnes 64).getLsbD i = true := by rw [BitVec.getLsbD_allOnes, decide_eq_true hi]
  rw [choose_getLsbD _ y z i hi, if_pos hone]

/-- Two equal arguments are the majority. -/
theorem majority_self (x z : Word) : majority x x z = x := by
  rw [majority, BitVec.and_self, BitVec.xor_assoc, BitVec.xor_self, BitVec.xor_zero]

/-- Settles O21: the words written out are evaluated, and Ch and Maj follow bit by bit. -/
theorem wordFunctionCornerCases : Obligations.WordFunctionCornerCases :=
  ⟨by decide, by decide, by decide, choose_self, choose_zero, choose_allOnes, majority_self, by decide⟩

end Sys2Proof.Proofs.WordFunctions
end

section
/-! PROOFS. Padded messages and their blocks (41_padding.md R133 to R138), and the commands that hash them
(42_compression.md R166; 43_digest.md R181 to R187). -/

namespace Sys2Proof.Proofs.Hashing

open Sys2Proof Sys2Proof.Machine Sys2Proof.Proofs.Padding Sys2Proof.Proofs.ChainCommands
  Sys2Proof.Proofs.DigestCommands

/-! ### The length of the padded message -/

/-- The padded message is N(L) whole blocks (R134). -/
theorem pad_length (m : List Byte) : (pad m).length = 128 * blockCount m.length := by
  have hparts : (pad m).length = m.length + 1 + zeroCount m.length + 16 := by simp [pad_eq]; omega
  have hmod := zeroCount_mod_eq_112 m.length
  have hlt := zeroCount_lt m.length
  rw [hparts, blockCount]
  omega

theorem blocksOf_length (p : List Byte) : (blocksOf p).length = p.length / 128 := by simp [blocksOf]

theorem blocksOf_pad_length (m : List Byte) : (blocksOf (pad m)).length = blockCount m.length := by
  rw [blocksOf_length, pad_length, Nat.mul_div_cancel_left _ (by decide)]

theorem blocksOf_getElem? {p : List Byte} {j : Nat} (hj : j < p.length / 128) :
    (blocksOf p)[j]? = some (block p j) := by
  simp [blocksOf, hj]

/-- A block that lies in the first part of a text does not depend on the rest. -/
theorem block_append_of_le {p q : List Byte} {j : Nat} (hj : 128 * j + 128 ≤ p.length) :
    block (p ++ q) j = block p j := by
  rw [block, block, List.drop_append_of_le_length (by omega), List.take_append_of_le_length (by simp; omega)]

/-- The whole blocks of a message are the first blocks of its padded form. -/
theorem blocksOf_pad_getElem? {m : List Byte} {j : Nat} (hj : j < m.length / 128) :
    (blocksOf (pad m))[j]? = some (block m j) := by
  have hlen : j < (pad m).length / 128 := by
    rw [pad_length, Nat.mul_div_cancel_left _ (by decide), blockCount]
    omega
  rw [blocksOf_getElem? hlen, pad_eq, List.append_assoc, List.append_assoc, block_append_of_le (by omega)]

/-- Settles O24: the length of Pad(m) by its four parts, and the closed forms by division. -/
theorem paddedLengthIsWholeBlocks : Obligations.PaddedLengthIsWholeBlocks := by
  intro m
  refine ⟨pad_length m, pad_length m, ?rounded, blocksOf_pad_length m, ?positive,
    fun j hj => blocksOf_pad_getElem? hj, ?oneOrTwo⟩
  case rounded => rw [blockCount]; omega
  case positive => rw [blockCount]; omega
  case oneOrTwo => rw [blockCount]; split <;> omega

/-! ### Padding is reversible -/

/-- The length field holds every bit length below 2^128, so it tells the length of the message. -/
theorem length_eq_of_field_eq {l l' : Nat} (hl : 8 * l < 2 ^ 128) (hl' : 8 * l' < 2 ^ 128)
    (h : bigEndian 16 (8 * l) = bigEndian 16 (8 * l')) : l = l' := by
  have hbytes : (256 : Nat) ^ 16 = 2 ^ 128 := by norm_num
  have hvalue := congrArg fromBigEndian h
  rw [fromBigEndian_bigEndian 16 _ (by rwa [hbytes]), fromBigEndian_bigEndian 16 _ (by rwa [hbytes])] at hvalue
  omega

/-- Settles O25: the last 16 bytes tell the length, and the first bytes of that length are the message. -/
theorem paddingIsReversible : Obligations.PaddingIsReversible := by
  intro m m' hfits hfits' hpad
  rw [pad_eq, pad_eq] at hpad
  obtain ⟨hbody, hfield⟩ := List.append_inj' hpad (by simp)
  have hlen := length_eq_of_field_eq hfits hfits' hfield
  rw [List.append_assoc, List.append_assoc] at hbody
  obtain ⟨hmessage, _⟩ := List.append_inj hbody hlen
  exact hmessage

/-! ### Blocks of MSG -/

theorem compressBlocks_append (h : Chain) (xs ys : List (List Byte)) :
    compressBlocks h (xs ++ ys) = compressBlocks (compressBlocks h xs) ys := List.foldl_append

/-- The blocks of MSG depend on the bytes they hold only; those of `s` may stand at `off` in `t`. -/
theorem memRead_block_congr {s t : State} {off n j : Nat} (hj : j < n)
    (h : ∀ i < 128 * n, messageByte t (off + i) = messageByte s i) :
    memRead t (off + 128 * j) 128 = memRead s (128 * j) 128 :=
  memRead_congr fun i hi => by rw [Nat.add_assoc, h _ (by omega)]

/-- The blocks of X ‖ Y are those of X and then those of Y (R166). -/
theorem messageBlocks_append {p q : Nat} {x y xy : State}
    (hx : ∀ i < 128 * p, messageByte xy i = messageByte x i)
    (hy : ∀ i < 128 * q, messageByte xy (128 * p + i) = messageByte y i) :
    messageBlocks xy (p + q) = messageBlocks x p ++ messageBlocks y q := by
  simp only [messageBlocks, List.range_add, List.map_append, List.map_map]
  congr 1
  · refine List.map_congr_left fun j hj => ?_
    have hblock := memRead_block_congr (off := 0) (List.mem_range.1 hj) (by simpa using hx)
    simpa using hblock
  · refine List.map_congr_left fun j hj => ?_
    rw [Function.comp_apply, Nat.mul_add, memRead_block_congr (List.mem_range.1 hj) hy]

/-- What COMPRESS leaves in H where LEN is n whole blocks inside the buffer. -/
theorem exec_compress_h {s : State} {n : Nat} (hlen : s.len.toNat = 128 * n) (hfits : s.len.toNat ≤ s.msgBytes) :
    ∃ t, exec .compress s = .next t ∧ t.h = compressBlocks s.h (messageBlocks s n) := by
  have hn : s.len.toNat / 128 = n := by omega
  exact ⟨_, exec_compress_of_whole hfits (by omega), by rw [hn]; rfl⟩

/-- Settles O16: folding over the blocks of X and then of Y is folding over both. -/
theorem compressComposesOverCommands : Obligations.CompressComposesOverCommands := by
  intro p q x y xy tx hlx hly hlxy hfx hfy hfxy hbx hby hh hexec hchain
  obtain ⟨ux, hux, hhx⟩ := exec_compress_h hlx hfx
  cases hux.symm.trans hexec
  obtain ⟨ty, hty, hhy⟩ := exec_compress_h hly hfy
  obtain ⟨txy, htxy, hhxy⟩ := exec_compress_h hlxy hfxy
  refine ⟨ty, txy, hty, htxy, ?_⟩
  rw [hhxy, messageBlocks_append hbx hby, compressBlocks_append, hh, ← hhx, ← hchain, hhy]

/-! ### DIGEST -/

theorem messageOf_congr {s t : State} (hlen : t.len = s.len)
    (h : ∀ i < s.len.toNat, messageByte t i = messageByte s i) : messageOf t = messageOf s := by
  rw [messageOf, messageOf, hlen]
  exact memRead_congr fun i hi => by rw [Nat.zero_add, h i hi]

/-- Settles O27: DIGEST of a LEN inside the buffer reads the message and LEN, and nothing else. -/
theorem digestDependsOnlyOnTheMessage : Obligations.DigestDependsOnlyOnTheMessage := by
  intro s s' t t' hlen hfits hfits' hbytes ht ht'
  cases (exec_digest_of_fits hfits).symm.trans ht
  cases (exec_digest_of_fits hfits').symm.trans ht'
  rw [messageOf_congr hlen hbytes, hlen]
  exact ⟨rfl, rfl, rfl, rfl⟩

/-- The one block of the padded empty message. -/
theorem blocksOf_pad_nil : blocksOf (pad []) = [0x80 :: List.replicate 127 0x00] := by decide +kernel

/-- F of IV and the block of the empty message, evaluated. -/
theorem compressBlock_initVector_empty : compressBlock initVector (0x80 :: List.replicate 127 0x00) =
    #v[0xcf83e1357eefb8bd, 0xf1542850d66d8007, 0xd620e4050b5715dc, 0x83f4a921d36ce9ce,
       0x47d0d13c5d85f2b0, 0xff8318d2877eec2f, 0x63b931bd47417a81, 0xa538327af927da3e] := by decide +kernel

/-- Settles O28: with LEN = 0 the message is empty, whatever MSG holds. -/
theorem digestOfTheEmptyMessage : Obligations.DigestOfTheEmptyMessage := by
  intro s hlen
  have hzero : s.len.toNat = 0 := by rw [hlen]; rfl
  have hempty : messageOf s = [] := by rw [messageOf, hzero]; rfl
  have hchain : compressBlocks initVector (blocksOf (pad (messageOf s))) =
      compressBlock initVector (0x80 :: List.replicate 127 0x00) := by rw [hempty, blocksOf_pad_nil]; rfl
  refine ⟨_, exec_digest_of_fits (by omega), ?chain, rfl, ?count⟩
  case chain => exact hchain.trans compressBlock_initVector_empty
  case count => rw [complete_blkcnt, State.setBlkcnt_blkcnt, hzero]; rfl

/-- Where MSG holds a text of n blocks, the blocks COMPRESS folds are those of the text (R138, R165). -/
theorem messageBlocks_eq_blocksOf {s : State} {p : List Byte} {n : Nat} (hlen : p.length = 128 * n)
    (h : ∀ i < 128 * n, some (messageByte s i) = p[i]?) : messageBlocks s n = blocksOf p := by
  have hn : p.length / 128 = n := by omega
  rw [messageBlocks, blocksOf, hn]
  refine List.map_congr_left fun j hj => List.ext_getElem? fun i => ?_
  have hjn := List.mem_range.1 hj
  by_cases hi : i < 128
  · rw [block, List.getElem?_take_of_lt hi, List.getElem?_drop, ← h _ (by omega)]
    simp [memRead, hi]
  · rw [List.getElem?_eq_none (by simp; omega), List.getElem?_eq_none (by simp [block]; omega)]

/-- Settles O29: INIT puts IV into H, and the blocks in MSG are those of the padded message. -/
theorem digestEqualsInitCompressExtract : Obligations.DigestEqualsInitCompressExtract := by
  intro a b hfits hlen hfits' hbytes
  have hmessage : (messageOf a).length = a.len.toNat := memRead_length a 0 _
  have hpad : (pad (messageOf a)).length = 128 * blockCount a.len.toNat := by rw [pad_length, hmessage]
  have hblocks := messageBlocks_eq_blocksOf (s := complete .none (b.setH initVector)) hpad (hlen ▸ hbytes)
  have hcount : b.len.toNat / 128 = blockCount a.len.toNat := by omega
  have hcompress := exec_compress_of_whole (s := complete .none (b.setH initVector)) hfits' (by
    rw [complete_len, State.setH_len, hlen, Nat.mul_mod_right])
  rw [complete_len, State.setH_len, hcount, hblocks] at hcompress
  refine ⟨_, _, _, _, exec_digest_of_fits hfits, execInit_eq b, hcompress, execExtract_eq _, rfl, rfl, rfl, ?count⟩
  have hfit := b.len.isLt
  exact (BitVec.toNat_ofNat _ _).trans (Nat.mod_eq_of_lt (by omega))

end Sys2Proof.Proofs.Hashing
end

section
/-! PROOFS. The digest codec there and back (44_codec.md R209 to R215): the text a well-formed HEX is, and Hex and Unhex
as inverses up to the case of the letters. -/

namespace Sys2Proof.Proofs.CodecRoundTrip

open Sys2Proof Sys2Proof.Machine Sys2Proof.Proofs.CodecCommands

/-! ### The length of the text -/

/-- The text ends at index 128 exactly where the NUL there is the first (R209). -/
theorem textLength_eq_128_iff (t : Vector Byte 129) :
    textLength t = 128 ↔ t[128] = 0x00 ∧ ∀ (i : Nat) (_ : i < 128), t[i] ≠ 0x00 := by
  have hlen : 128 < t.toList.length := by simp
  rw [textLength, List.findIdx_eq hlen]
  simp only [Vector.getElem_toList, beq_iff_eq, beq_eq_false_iff_ne]

/-- A NUL is no hex digit. -/
theorem ne_nul_of_isSome_hexValue {c : Byte} (h : (hexValue c).isSome) : c ≠ 0x00 := by
  rintro rfl
  exact absurd h (by decide)

/-- Settles O36: a text of digits has no NUL before index 128. -/
theorem wellFormedHexHasLength128 : Obligations.WellFormedHexHasLength128 := by
  intro t
  rw [HexWellFormed, textLength_eq_128_iff, Fin.forall_iff]
  constructor
  · rintro ⟨hnul, hdigits⟩
    exact ⟨⟨hnul, fun i hi => ne_nul_of_isSome_hexValue (hdigits i hi)⟩, hdigits⟩
  · rintro ⟨⟨hnul, _⟩, hdigits⟩
    exact ⟨hnul, hdigits⟩

/-! ### Hex and back -/

/-- Every character of Hex(r) is the digit of a nibble, and the NUL ends the text. -/
theorem hexWellFormed_hexEncode (r : Vector Byte 64) : HexWellFormed (hexEncode r) := by
  rw [hexWellFormed_iff]
  refine ⟨hexEncode_end r, fun i hi => ?_⟩
  have hbyte := r[i / 2].isLt
  rcases Nat.even_or_odd' i with ⟨k, rfl | rfl⟩
  · rw [hexEncode_high r k (by omega)]
    exact ⟨_, hexValue_hexDigit _ (by omega)⟩
  · rw [hexEncode_low r k (by omega)]
    exact ⟨_, hexValue_hexDigit _ (by omega)⟩

/-- Unhex undoes Hex (R214). -/
theorem hexDecode_hexEncode (r : Vector Byte 64) : hexDecode (hexEncode r) = r := by
  apply Vector.ext
  intro i hi
  have hbyte := r[i].isLt
  have hhigh : hexValue (hexEncode r)[2 * i] = some (r[i].toNat / 16) := by
    rw [hexEncode_high r i hi, hexValue_hexDigit _ (by omega)]
  have hlow : hexValue (hexEncode r)[2 * i + 1] = some (r[i].toNat % 16) := by
    rw [hexEncode_low r i hi, hexValue_hexDigit _ (by omega)]
  apply BitVec.eq_of_toNat_eq
  rw [hexDecode_toNat hi hhigh hlow]
  omega

/-- Hex is injective: Unhex undoes it (R215). -/
theorem hexEncode_injective : Function.Injective hexEncode := Function.LeftInverse.injective hexDecode_hexEncode

/-! ### Unhex and back -/

/-- The lowercase form of a character: the letters 'A' to 'F' move up, every other byte stays. -/
def lowercase (c : Byte) : Byte := if 0x41 ≤ c.toNat ∧ c.toNat ≤ 0x46 then c + 0x20 else c

theorem lowercase_of_not_upper {c : Byte} (h : ¬(0x41 ≤ c.toNat ∧ c.toNat ≤ 0x46)) : lowercase c = c := if_neg h

/-- The digit of the value of a character is its lowercase form: the value forgets the case alone. -/
theorem hexDigit_of_hexValue {c : Byte} {n : Nat} (h : hexValue c = some n) : hexDigit n = lowercase c := by
  apply BitVec.eq_of_toNat_eq
  rcases (hexValue_eq_some_iff c n).1 h with ⟨_, _, hn⟩ | ⟨_, _, hn⟩ | ⟨_, _, hn⟩
  · rw [hexDigit, if_pos (by omega), lowercase_of_not_upper (by omega), BitVec.toNat_ofNat]
    omega
  · rw [hexDigit, if_neg (by omega), lowercase_of_not_upper (by omega), BitVec.toNat_ofNat]
    omega
  · rw [hexDigit, if_neg (by omega), lowercase, if_pos (by omega), BitVec.toNat_ofNat, BitVec.toNat_add]
    simp
    omega

/-- Hex after Unhex gives the lowercase form of a well-formed text, character by character (R215). -/
theorem hexEncode_hexDecode_getElem {t : Vector Byte 129} (ht : HexWellFormed t) {i : Nat} (hi : i < 128) :
    (hexEncode (hexDecode t))[i] = lowercase t[i] := by
  obtain ⟨_, hdigits⟩ := (hexWellFormed_iff t).1 ht
  obtain ⟨k, hk⟩ := Nat.even_or_odd' i
  obtain ⟨high, hhigh⟩ := hdigits (2 * k) (by omega)
  obtain ⟨low, hlow⟩ := hdigits (2 * k + 1) (by omega)
  have hhigh16 := hexValue_lt hhigh
  have hlow16 := hexValue_lt hlow
  have hbyte := hexDecode_toNat (by omega) hhigh hlow
  rcases hk with rfl | rfl
  · have hdiv : (high * 16 + low) / 16 = high := by omega
    rw [hexEncode_high _ k (by omega), hbyte, hdiv, hexDigit_of_hexValue hhigh]
  · have hmod : (high * 16 + low) % 16 = low := by omega
    rw [hexEncode_low _ k (by omega), hbyte, hmod, hexDigit_of_hexValue hlow]

/-- Hex after Unhex gives back a well-formed text without uppercase letters (R214). -/
theorem hexEncode_hexDecode {t : Vector Byte 129} (ht : HexWellFormed t)
    (hlower : ∀ (i : Nat) (_ : i < 128), ¬(0x41 ≤ t[i].toNat ∧ t[i].toNat ≤ 0x46)) :
    hexEncode (hexDecode t) = t := by
  apply Vector.ext
  intro i hi
  rcases Nat.lt_or_eq_of_le (Nat.le_of_lt_succ hi) with hchar | rfl
  · rw [hexEncode_hexDecode_getElem ht hchar, lowercase_of_not_upper (hlower i hchar)]
  · rw [hexEncode_end, ht.1]

/-! ### DUMP and READ one after the other -/

/-- READ after DUMP finds the text DUMP wrote well formed. -/
theorem exec_read_after_dump (s : State) : ∃ t u, exec .dump s = .next t ∧ exec .read t = .next u ∧
    t.hex = hexEncode s.raw ∧ u.raw = hexDecode (hexEncode s.raw) ∧ u.status.err = false :=
  ⟨_, _, execDump_eq s, exec_read_of_wellFormed (hexWellFormed_hexEncode s.raw), rfl, rfl, rfl⟩

/-- DUMP after READ of a well-formed text writes the digits of the bytes READ found. -/
theorem exec_dump_after_read {s : State} (h : HexWellFormed s.hex) : ∃ t u, exec .read s = .next t ∧
    exec .dump t = .next u ∧ u.hex = hexEncode (hexDecode s.hex) ∧ t.status.err = false :=
  ⟨_, _, exec_read_of_wellFormed h, execDump_eq _, rfl, rfl⟩

/-- Settles O37, by the two inverse laws of Hex and Unhex. -/
theorem codecRoundTrips : Obligations.CodecRoundTrips := by
  refine ⟨fun s => ?dumpThenRead, fun s h hlower => ?readThenDump⟩
  case dumpThenRead =>
    obtain ⟨t, u, ht, hu, hhex, hraw, herr⟩ := exec_read_after_dump s
    exact ⟨t, u, ht, hu, hraw.trans (hexDecode_hexEncode s.raw), herr, hhex ▸ hexWellFormed_hexEncode s.raw⟩
  case readThenDump =>
    obtain ⟨t, u, ht, hu, hhex, herr⟩ := exec_dump_after_read h
    exact ⟨t, u, ht, hu, hhex.trans (hexEncode_hexDecode h hlower), herr⟩

/-- Settles O38: Unhex undoes Hex, and the value of a character forgets its case alone. -/
theorem decodingNormalisesCase : Obligations.DecodingNormalisesCase := by
  refine ⟨fun r r' h => hexEncode_injective h, fun s h => ?_⟩
  obtain ⟨t, u, ht, hu, hhex, _⟩ := exec_dump_after_read h
  refine ⟨t, u, ht, hu, fun i hi => ?_⟩
  simp only [hhex]
  exact hexEncode_hexDecode_getElem h hi

end Sys2Proof.Proofs.CodecRoundTrip
end

section
/-! PROOFS. Port accesses by target (20_memory.md R53 to R62; 10_state.md R28): what an idle engine reads back, the
fields of STATUS on the port, and what reads and refused writes leave alone. -/

namespace Sys2Proof.Proofs.PortAccess

open Sys2Proof Sys2Proof.Machine Sys2Proof.Proofs.Registers Sys2Proof.Proofs.HostPort

/-! ### Words read back as written -/

/-- A port write of a whole word of a fixed buffer reads back as written (R56). -/
theorem bufferWord_bufferWrite {n : Nat} (b : Vector Byte n) (k : Nat) (v : Word) (hk : 8 * k + 8 ≤ n) :
    bufferWord (bufferWrite b k v) k = v := by
  apply word_eq_of_bytes
  intro j hj
  rw [extract_bufferWord _ k j hj (by omega), bufferWrite_get_word b k j v hj]

/-- A port write of a word of MSG reads back as written (R56). -/
theorem wordOfBytes_memWriteWord (s : State) (off : Nat) (v : Word) :
    (wordOfBytes fun j => messageByte (s.setMsg (memWriteWord s.msg off v)) (off + j)) = v :=
  wordOfBytes_eq v _ fun j hj => by
    rw [messageByte_setMsg_word, if_pos (by omega), Nat.add_sub_cancel_left]

/-- The targets that hold a whole word the host may write: LEN, H, RAW, the first 16 words of HEX, and MSG. -/
def HoldsWord (r : Target) : Prop :=
  r = .len ∨ (∃ i, r = .h i) ∨ (∃ k, r = .raw k) ∨ (∃ k : Fin 17, r = .hex k ∧ k.val < 16) ∨ ∃ off, r = .msg off

/-- A word written to such a target while BUSY = 0 reads back as written. -/
theorem readTarget_writeIdle {r : Target} (hr : HoldsWord r) (v : Word) (s : State) :
    readTarget (writeIdle v s r) r = v := by
  rcases hr with rfl | ⟨i, rfl⟩ | ⟨k, rfl⟩ | ⟨k, rfl, hk⟩ | ⟨off, rfl⟩
  · rfl
  · exact Vector.getElem_set_self _
  · exact bufferWord_bufferWrite s.raw k.val v (by omega)
  · exact bufferWord_bufferWrite s.hex k.val v (by omega)
  · exact wordOfBytes_memWriteWord s off v

/-- A write of data leaves BUSY as it is: only a write of CMD raises it. -/
theorem writeIdle_busy {r : Target} (hr : HoldsWord r) (v : Word) (s : State) :
    (writeIdle v s r).status.busy = s.status.busy := by
  rcases hr with rfl | ⟨i, rfl⟩ | ⟨k, rfl⟩ | ⟨k, rfl, _⟩ | ⟨off, rfl⟩ <;> rfl

/-- The addresses of the words that read back as written, by their targets. -/
theorem holdsWord_of_address {n a : Nat} {r : Target} (ht : targetOf n a = some r)
    (ha : a = 0x0018 ∨ (0x0040 ≤ a ∧ a < 0x0140) ∨ 0x1000 ≤ a) : HoldsWord r := by
  rcases targetOf_some ht with h | h | h | ⟨_, h⟩ | h | ⟨_, _, h⟩ | ⟨_, _, h⟩ | ⟨_, _, h⟩ | ⟨_, _, h⟩
  · omega
  · omega
  · omega
  · exact .inl h
  · omega
  · exact .inr (.inl ⟨_, h⟩)
  · exact .inr (.inr (.inl ⟨_, h⟩))
  · exact .inr (.inr (.inr (.inl ⟨_, h, by simp; omega⟩)))
  · exact .inr (.inr (.inr (.inr ⟨_, h⟩)))

/-- Settles O44: the address names a target that holds a whole word, before the write and after it. -/
theorem idleWritesReadBack : Obligations.IdleWritesReadBack := by
  intro s addr v hb hm ha
  obtain ⟨r, ht, _⟩ := mapped_targetOf hm
  have hr := holdsWord_of_address ht ha
  refine ⟨_, portWrite_idle_of_target v hb hm.1 ht, ?_⟩
  have hread := portRead_of_target (s := writeIdle v s r) hm.1 (by rwa [writeIdle_msgBytes])
    (.inl ((writeIdle_busy hr v s).trans hb))
  rwa [readTarget_writeIdle hr] at hread

/-! ### H and RAW in words -/

/-- The port at the word of H[i] while BUSY = 0. -/
theorem port_hWord {s : State} {addr : Word} {i : Nat} (v : Word) (hb : s.status.busy = false)
    (ha : addr.toNat = 0x0040 + 8 * i) (hi : i < 8) :
    portRead addr s = (⟨.okay, some s.h[i]⟩, s) ∧ portWrite addr v s = (⟨.okay, none⟩, s.setH (s.h.set i v)) := by
  have h8 : addr.toNat % 8 = 0 := by omega
  have hword : Fin.ofNat 8 ((addr.toNat - 0x0040) / 8) = ⟨i, hi⟩ := Fin.ext (by simp; omega)
  have ht : targetOf s.msgBytes addr.toNat = some (.h ⟨i, hi⟩) := by rw [targetOf_h _ _ (by omega), hword]
  exact ⟨portRead_of_target h8 ht (.inl hb), portWrite_idle_of_target v hb h8 ht⟩

/-- Word k of RAW after a serialisation is H[k]: both are big-endian (R58). -/
theorem bufferWord_serialise (h : Chain) {k : Nat} (hk : k < 8) : bufferWord (serialise h) k = h[k] := by
  apply word_eq_of_bytes
  intro j hj
  rw [extract_bufferWord _ k j hj (by omega), DigestCommands.serialise_getElem_eq_extract h hk hj]

/-- Settles O31. -/
theorem rawWordsReadAsTheChainAfterExtract : Obligations.RawWordsReadAsTheChainAfterExtract := by
  refine ⟨fun s i hi v hb => ?chain, fun s k hk => ?extract⟩
  case chain => exact port_hWord v hb (Nat.mod_eq_of_lt (by omega)) hi
  case extract =>
    have ha : (BitVec.ofNat 64 (0x0080 + 8 * k)).toNat = 0x0080 + 8 * k := Nat.mod_eq_of_lt (by omega)
    obtain ⟨hread, _⟩ := port_rawWord (s := complete .none (s.setRaw (serialise s.h))) 0 rfl ha hk
    rw [complete_raw, State.setRaw_raw, bufferWord_serialise s.h hk] at hread
    exact ⟨_, execExtract_eq s, hread⟩

/-! ### STATUS on the port -/

theorem portRead_status (s : State) : portRead 0x0008 s = (⟨.okay, some (statusWord s.status)⟩, s) :=
  portRead_of_target (r := .status) rfl rfl (.inr rfl)

/-- A write of STATUS is taken whatever BUSY is (R28, R54). -/
theorem portWrite_status (s : State) (v : Word) :
    portWrite 0x0008 v s = (⟨.okay, none⟩, s.setStatus (statusAfterWrite v s.status)) := by
  rw [portWrite_of_target (r := .status) v rfl rfl]
  cases s.status.busy <;> rfl

/-- STATUS on the port, bit by bit: the four flags below, and ERRCODE from bit 8 on (R28). -/
theorem statusWord_getLsbD (f : Status) (i : Nat) : (statusWord f).getLsbD i =
    if i = 0 then f.busy else if i = 1 then f.done else if i = 2 then f.err else if i = 3 then f.ovr
    else decide (8 ≤ i) && (errorNumber f.errcode).getLsbD (i - 8) := by
  change BitVec.getLsbD (w := 52 + 4 + 4 + 1 + 1 + 1 + 1) ((0 : BitVec 52) ++ errorNumber f.errcode ++ (0 : BitVec 4)
    ++ BitVec.ofBool f.ovr ++ BitVec.ofBool f.err ++ BitVec.ofBool f.done ++ BitVec.ofBool f.busy) i = _
  simp only [BitVec.getLsbD_append]
  match i with
  | 0 | 1 | 2 | 3 => simp
  | 4 | 5 | 6 | 7 => simp
  | j + 8 =>
    by_cases hj : j < 4
    · simp [hj]
    · simp [hj, BitVec.getLsbD_of_ge (errorNumber f.errcode) j (by omega)]

theorem statusWord_busy (f : Status) : (statusWord f).getLsbD 0 = f.busy := statusWord_getLsbD f 0

/-- Above the flags STATUS holds ERRCODE alone. -/
theorem statusWord_getLsbD_of_four_le (f : Status) {i : Nat} (hi : 4 ≤ i) :
    (statusWord f).getLsbD i = (decide (8 ≤ i) && (errorNumber f.errcode).getLsbD (i - 8)) := by
  rw [statusWord_getLsbD]
  iterate 4 rw [if_neg (by omega)]

/-- The reserved bits 7:4 read as 0. -/
theorem statusWord_extract_low (f : Status) : (statusWord f).extractLsb' 4 4 = 0 := by
  apply BitVec.eq_of_getLsbD_eq
  intro i hi
  have hbelow : ¬8 ≤ 4 + i := by omega
  rw [BitVec.getLsbD_extractLsb', statusWord_getLsbD_of_four_le f (by omega)]
  simp [hbelow]

/-- Bits 11:8 are ERRCODE. -/
theorem statusWord_extract_errcode (f : Status) : (statusWord f).extractLsb' 8 4 = errorNumber f.errcode := by
  apply BitVec.eq_of_getLsbD_eq
  intro i hi
  rw [BitVec.getLsbD_extractLsb', statusWord_getLsbD_of_four_le f (by omega)]
  simp [hi]

/-- The reserved bits 63:12 read as 0: ERRCODE has four bits. -/
theorem statusWord_extract_high (f : Status) : (statusWord f).extractLsb' 12 52 = 0 := by
  apply BitVec.eq_of_getLsbD_eq
  intro i hi
  have habove : (errorNumber f.errcode).getLsbD (12 + i - 8) = false := BitVec.getLsbD_of_ge _ _ (by omega)
  rw [BitVec.getLsbD_extractLsb', statusWord_getLsbD_of_four_le f (by omega), habove]
  simp

/-- Each error has its own code (R237). -/
theorem errorNumber_inj {c d : ErrCode} : errorNumber c = errorNumber d ↔ c = d := by
  constructor
  · cases c <;> cases d <;> decide
  · exact congrArg errorNumber

/-- The codes 5 to 15 are never produced (R237). -/
theorem errorNumber_le (c : ErrCode) : (errorNumber c).toNat ≤ 4 := by cases c <;> decide

/-- Settles O47: the word is read bit by bit, and a code is that of its error alone. -/
theorem statusFieldsAndWriteOneToClear : Obligations.StatusFieldsAndWriteOneToClear := by
  intro s v
  refine ⟨statusWord s.status, portRead_status s, statusWord_busy _, statusWord_getLsbD _ 1, statusWord_getLsbD _ 2,
    statusWord_getLsbD _ 3, statusWord_extract_low _, statusWord_extract_high _, ?codes⟩
  rw [statusWord_extract_errcode]
  exact ⟨errorNumber_le _, errorNumber_inj (d := .none), errorNumber_inj (d := .illegalCmd),
    errorNumber_inj (d := .lenRange), errorNumber_inj (d := .lenAlign), errorNumber_inj (d := .hexMalformed),
    portWrite_status s v⟩

/-! ### What a transaction leaves alone -/

/-- A read counts a free value as drawn, or does nothing at all (R62). -/
theorem portRead_state (addr : Word) (s : State) :
    (portRead addr s).2 = s ∨ (s.status.busy = true ∧ (portRead addr s).2 = s.countDraw) := by
  rcases portRead_cases addr s with ⟨_, h⟩ | ⟨_, _, h⟩ | ⟨_, _, _, hb, _, h⟩ | ⟨_, _, _, _, h⟩
  · exact .inl (congrArg Prod.snd h)
  · exact .inl (congrArg Prod.snd h)
  · exact .inr ⟨hb, congrArg Prod.snd h⟩
  · exact .inl (congrArg Prod.snd h)

/-- A read of an idle engine leaves the whole state. -/
theorem portRead_state_idle {s : State} (addr : Word) (hb : s.status.busy = false) : (portRead addr s).2 = s := by
  rcases portRead_state addr s with h | ⟨hbusy, _⟩
  · exact h
  · simp [hb] at hbusy

/-- CMD has no storage: it reads 0 whatever BUSY is (R32). -/
theorem portRead_cmd (s : State) : portRead 0x0000 s = (⟨.okay, some 0⟩, s) :=
  portRead_of_target (r := .cmd) rfl rfl (.inr rfl)

/-- Settles O51, by the two things a read can do. -/
theorem readsHaveNoSideEffect : Obligations.ReadsHaveNoSideEffect := by
  intro s addr
  refine ⟨?registers, portRead_cmd s, fun hb => ⟨portRead_state_idle addr hb, ?repeated⟩⟩
  case registers =>
    rcases portRead_state addr s with h | ⟨_, h⟩
    · rw [h]
    · rw [h]; rfl
  case repeated => rw [portRead_state_idle addr hb]

/-- While BUSY = 1 a host transaction changes STATUS, with BUSY kept, CTRL and the model's own fields at most. -/
theorem hostTurn_of_busy (x : Txn) {s : State} (hb : s.status.busy = true) :
    ∃ f c d a, f.busy = true ∧ hostTurn x s = { s with status := f, ctrl := c, draws := d, answers := a } := by
  rcases hostTurn_cases x s with ⟨_, h⟩ | ⟨_, _, h⟩ | ⟨_, v, r, _, _, _, _, h⟩ | ⟨_, _, _, _, _, _, hidle, _⟩
  · exact ⟨_, _, _, _, hb, h⟩
  · exact ⟨_, _, _, _, hb, h⟩
  · rcases writeBusy_cases v s r with ⟨_, hw⟩ | ⟨_, hw⟩ | ⟨_, _, hw⟩
    · exact ⟨statusAfterWrite v s.status, _, _, _, hb, h.trans (by rw [hw]; rfl)⟩
    · exact ⟨s.status, ctrlAfterWrite v, _, _, hb, h.trans (by rw [hw]; rfl)⟩
    · exact ⟨statusOverrun s.status, _, _, _, hb, h.trans (by rw [hw]; rfl)⟩
  · simp [hb] at hidle

/-- Settles O52: no operand, nor PEND, is among what a transaction can change while BUSY = 1. -/
theorem operandsAreStableWhileBusy : Obligations.OperandsAreStableWhileBusy := by
  intro s x hb
  obtain ⟨f, c, d, a, hbusy, h⟩ := hostTurn_of_busy x hb
  rw [h]
  exact ⟨rfl, rfl, fun _ => rfl, rfl, rfl, rfl, rfl, hbusy⟩

end Sys2Proof.Proofs.PortAccess
end

section
/-! PROOFS. What the commands touch (10_state.md sections 1 and 7): the registers each writes, and the hidden values
none reads. -/

namespace Sys2Proof.Proofs.CommandFrames

open Sys2Proof Sys2Proof.Machine Sys2Proof.Proofs.Registers

/-- No command writes MSG, or anything else outside its results and STATUS (R63). -/
theorem exec_frame {i : Instr} {s t : State} (h : exec i s = .next t) : CommandFrame s t ∧ t.msg = s.msg := by
  obtain ⟨c, u, hu, hexec⟩ := exec_next i s
  cases hexec.symm.trans h
  exact ⟨commandFrame_complete c hu, (complete_msg u c).trans (differs_msg hu)⟩

/-- Of the results H, RAW and HEX, each command writes those the inventory of the state gives it. -/
theorem exec_results {i : Instr} {s t : State} (h : exec i s = .next t) :
    (i ≠ .init → i ≠ .compress → i ≠ .digest → t.h = s.h) ∧
    (i ≠ .digest → i ≠ .extract → i ≠ .read → t.raw = s.raw) ∧ (i ≠ .dump → t.hex = s.hex) := by
  cases i with
  | init => cases (execInit_eq s).symm.trans h; simp
  | extract => cases (execExtract_eq s).symm.trans h; simp
  | dump => cases (execDump_eq s).symm.trans h; simp
  | compress =>
    rcases execCompress_cases s with ⟨_, hc⟩ | ⟨_, _, hc⟩ | ⟨_, _, hc⟩ <;> cases hc.symm.trans h <;> simp
  | digest => rcases execDigest_cases s with ⟨_, hd⟩ | ⟨_, hd⟩ <;> cases hd.symm.trans h <;> simp
  | read => rcases execRead_cases s with ⟨_, hr⟩ | ⟨_, hr⟩ <;> cases hr.symm.trans h <;> simp

/-- Settles O39, by the frame of every command and the results of each. -/
theorem eachRegisterHasItsWriters : Obligations.EachRegisterHasItsWriters := by
  intro i s t h
  obtain ⟨hframe, hmsg⟩ := exec_frame h
  obtain ⟨hh, hraw, hhex⟩ := exec_results h
  exact ⟨hframe, hmsg, hh, fun hc hd => exec_other_keeps_blkcnt hc hd h, hraw, hhex⟩

/-- A completion writes PEND and the working values over whatever they were (R238; note 4). -/
theorem next_complete_hidden (p : Word) (w : Scratch) (c : ErrCode) (s : State) :
    (.next (complete c { s with pend := p, scratch := w }) : Host.Outcome State Fault Refusal) =
      .next (complete c s) := rfl

/-- Settles O41: each command's checks and results are functions of the other registers, and the completion overwrites
the hidden ones. -/
theorem hiddenStateIsNeverRead : Obligations.HiddenStateIsNeverRead := by
  intro i s p w
  have hover := next_complete_hidden p w
  cases i with
  | init => exact (execInit_eq _).trans ((hover .none _).trans (execInit_eq s).symm)
  | extract => exact (execExtract_eq _).trans ((hover .none _).trans (execExtract_eq s).symm)
  | dump => exact (execDump_eq _).trans ((hover .none _).trans (execDump_eq s).symm)
  | compress =>
    rcases execCompress_cases s with ⟨hrange, h⟩ | ⟨hfits, hpart, h⟩ | ⟨hfits, hwhole, h⟩
    · exact (exec_of_len_out_of_range (.inl rfl) hrange).trans ((hover .lenRange s).trans h.symm)
    · exact (ChainCommands.exec_compress_of_not_whole hfits hpart).trans ((hover .lenAlign s).trans h.symm)
    · exact (ChainCommands.exec_compress_of_whole hfits hwhole).trans ((hover .none _).trans h.symm)
  | digest =>
    rcases execDigest_cases s with ⟨hrange, h⟩ | ⟨hfits, h⟩
    · exact (exec_of_len_out_of_range (.inr rfl) hrange).trans ((hover .lenRange s).trans h.symm)
    · exact (DigestCommands.exec_digest_of_fits hfits).trans ((hover .none _).trans h.symm)
  | read =>
    rcases execRead_cases s with ⟨hgood, h⟩ | ⟨hbad, h⟩
    · exact (CodecCommands.exec_read_of_wellFormed hgood).trans ((hover .none _).trans h.symm)
    · exact (CodecCommands.exec_read_of_not_wellFormed hbad).trans ((hover .hexMalformed s).trans h.symm)

end Sys2Proof.Proofs.CommandFrames
end

section
/-! PROOFS. The script statement `exec` (30_encoding.md R88; note 10): the write of CMD, the polls of a busy engine, the
engine's turn, and the last poll. -/

namespace Sys2Proof.Proofs.ScriptExec

open Sys2Proof Sys2Proof.Machine Sys2Proof.Proofs.Registers Sys2Proof.Proofs.Exceptions Sys2Proof.Proofs.Steps
  Sys2Proof.Proofs.PortAccess

/-- A run goes on from where its first steps lead. -/
theorem run_add {s t : State} {m : Nat} (n : Nat) (h : Sys2Proof.core.run m s = .next t) :
    Sys2Proof.core.run (m + n) s = Sys2Proof.core.run n t := by
  induction m generalizing s with
  | zero =>
    cases h
    rw [Nat.zero_add]
  | succ m ih =>
    obtain ⟨u, hu⟩ := step_total s
    rw [run_succ m hu] at h
    rw [Nat.succ_add, run_succ (m + n) hu, ih h]

/-- A poll: a read of STATUS records its word, and nothing else happens. -/
theorem step_poll {s : State} (rest : List Event) (he : s.events = .host (.read 0x0008) :: rest) :
    step s = .next ((s.setEvents rest).pushAnswer ⟨.okay, some (statusWord s.status)⟩) := by
  rw [step_of_hostMoves ⟨rest, he⟩, he, List.tail_cons, hostTurn, transact, portRead_status, State.setEvents_status]

/-- `k` polls record the word of STATUS `k` times. -/
theorem run_polls (k : Nat) {s : State} (rest : List Event)
    (he : s.events = List.replicate k (.host (.read 0x0008)) ++ rest) :
    ∃ t, Sys2Proof.core.run k s = .next t ∧ t.events = rest ∧ t.status = s.status ∧ t.pend = s.pend ∧
      t.answers = List.replicate k ⟨.okay, some (statusWord s.status)⟩ ++ s.answers := by
  induction k generalizing s with
  | zero => exact ⟨s, rfl, he, rfl, rfl, rfl⟩
  | succ k ih =>
    have hpoll := step_poll _ he
    obtain ⟨t, hrun, hevents, hstatus, hpend, hanswers⟩ :=
      ih (s := (s.setEvents _).pushAnswer ⟨.okay, some (statusWord s.status)⟩) rfl
    refine ⟨t, (run_succ k hpoll).trans hrun, hevents, hstatus, hpend, ?_⟩
    rw [hanswers, List.replicate_succ', List.append_assoc]
    rfl

/-- The write of a command word to an idle engine: accepted, and answered OKAY (R231). -/
theorem step_cmd {s : State} {w : Word} (rest : List Event) (hb : s.status.busy = false)
    (he : s.events = .host (.write 0x0000 w) :: rest) :
    ∃ t, step s = .next t ∧ t.events = rest ∧ t.status = statusAccepted s.status ∧ t.pend = w ∧
      t.answers = ⟨.okay, none⟩ :: s.answers := by
  have hstep := step_of_hostMoves (s := s) ⟨rest, he⟩
  obtain ⟨haccept, _⟩ := cmdWriteAcceptsTheWord (s.setEvents s.events.tail) w
  rw [hostTurn, transact, haccept hb, he] at hstep
  exact ⟨_, hstep, rfl, rfl, rfl, rfl⟩

/-- The engine's turn on the word of a command completes it, with the answers and events as they were. -/
theorem step_engine {s : State} {i : Instr} (rest : List Event) (hb : s.status.busy = true)
    (hp : s.pend = encode i) (he : s.events = .engine :: rest) :
    ∃ t, step s = .next t ∧ t.events = rest ∧ t.status.busy = false ∧ t.status.done = true ∧
      t.answers = s.answers := by
  obtain ⟨hcommand, _⟩ := stepPerformsThePendingCommand s hb (.inr ⟨rest, he⟩)
  obtain ⟨hcompletes, _⟩ := everyCommandEndsWithCompletion
  obtain ⟨c, t, hexec, hcompleted, _⟩ := hcompletes i (s.setEvents rest)
  obtain ⟨hframe, _⟩ := CommandFrames.exec_frame hexec
  have hd : decode s.pend = .command i := (Encoding.decode_eq_command_iff_eq_encode _ i).2 hp
  have hstep := hcommand i hd
  rw [he, List.tail_cons, hexec] at hstep
  exact ⟨t, hstep, hframe.events, hcompleted.busy, hcompleted.done, hframe.answers⟩

/-- Settles O60: the acceptance, the polls, the engine's turn and the last poll, run one after another. -/
theorem scriptExecWaitsForCompletion : Obligations.ScriptExecWaitsForCompletion := by
  intro s k i hb he
  obtain ⟨t₁, hcmd, hevents₁, hstatus₁, hpend₁, hanswers₁⟩ := step_cmd (waitEvents k) hb he
  obtain ⟨t₂, hpolls, hevents₂, hstatus₂, hpend₂, hanswers₂⟩ := run_polls k _ hevents₁
  have hbusy₁ : t₁.status.busy = true := by rw [hstatus₁, statusAccepted_busy]
  obtain ⟨t₃, hturn, hevents₃, hbusy₃, hdone₃, hanswers₃⟩ :=
    step_engine _ (hstatus₂ ▸ hbusy₁) (hpend₂.trans hpend₁) hevents₂
  have hlast := step_poll [] hevents₃
  refine ⟨(t₃.setEvents []).pushAnswer ⟨.okay, some (statusWord t₃.status)⟩, statusWord t₃.status, ?run, hbusy₃,
    hdone₃, (statusWord_busy _).trans hbusy₃, List.replicate k ⟨.okay, some (statusWord t₁.status)⟩,
    List.length_replicate, ?polls, ?answers⟩
  case run =>
    rw [run_succ (k + 2) hcmd, run_add 2 hpolls, run_succ 1 hturn, run_succ 0 hlast]
    rfl
  case polls =>
    intro a ha
    exact ⟨_, List.eq_of_mem_replicate ha, (statusWord_busy _).trans hbusy₁⟩
  case answers =>
    rw [State.pushAnswer_answers, State.setEvents_answers, hanswers₃, hanswers₂, hanswers₁]

end Sys2Proof.Proofs.ScriptExec
end
